-- ==== Sys2Proof/Word.lean ====
section
/-! DEFINITION. The word and byte types of the Nullbyte One (00_scope.md R6, R13). -/

namespace Sys2Proof

/-- A 16-bit word: every register and every memory word (R6, R20). -/
abbrev Word := BitVec 16

/-- A byte: the unit an address names (R60). -/
abbrev Byte := BitVec 8

end Sys2Proof
end

