-- ==== Sys2Proof/Syntax.lean ====
section
/-! DEFINITION. The instructions: one constructor for each of the 63 rows of spec/opcode_table.json
(30_encoding.md R107, R120, R122). An operand `ext` is the raw extension word. -/

namespace Sys2Proof

/-- The eight general registers, named by a 3-bit field (10_state.md R21). -/
inductive Reg where
  | r0 | r1 | r2 | r3 | r4 | r5 | r6 | r7
deriving DecidableEq, Repr

/-- One constructor per row of the opcode table. `rd` and `ra` are the fields RD and RA; in the register form of
the ALU and helper classes the B register is fixed by the operation (R121, `Instr.implicitB`) and so is no operand here:
a three-register `ADD Rd, Ra, Rb` with Rb other than R0 is no instruction, and there are no pseudo-instructions (R131). -/
inductive Instr where
  -- control, OP 0x0
  | nop
  | sync
  | halt
  | trap (rd : Reg)
  | swi (ext : Word)
  -- data movement, OP 0x1 to 0x3
  | movReg (rd ra : Reg)
  | movImm (rd : Reg) (ext : Word)
  | loadInd (rd ra : Reg)
  | loadDisp (rd ra : Reg) (ext : Word)
  | loadAbs (rd : Reg) (ext : Word)
  | loadPcrel (rd : Reg) (ext : Word)
  | storeInd (rd ra : Reg)
  | storeDisp (rd ra : Reg) (ext : Word)
  | storeAbs (rd : Reg) (ext : Word)
  | storePcrel (rd : Reg) (ext : Word)
  -- integer ALU, OP 0x4
  | addReg (rd ra : Reg)
  | addImm (rd ra : Reg) (ext : Word)
  | subReg (rd ra : Reg)
  | subImm (rd ra : Reg) (ext : Word)
  | andReg (rd ra : Reg)
  | andImm (rd ra : Reg) (ext : Word)
  | orReg (rd ra : Reg)
  | orImm (rd ra : Reg) (ext : Word)
  | xorReg (rd ra : Reg)
  | xorImm (rd ra : Reg) (ext : Word)
  | shlReg (rd ra : Reg)
  | shlImm (rd ra : Reg) (ext : Word)
  | shrReg (rd ra : Reg)
  | shrImm (rd ra : Reg) (ext : Word)
  | cmpReg (ra : Reg)
  | cmpImm (ra : Reg) (ext : Word)
  -- math helpers, OP 0x5
  | mulReg (rd ra : Reg)
  | mulImm (rd ra : Reg) (ext : Word)
  | mulhReg (rd ra : Reg)
  | mulhImm (rd ra : Reg) (ext : Word)
  | divReg (rd ra : Reg)
  | divImm (rd ra : Reg) (ext : Word)
  | modReg (rd ra : Reg)
  | modImm (rd ra : Reg) (ext : Word)
  | qaddReg (rd ra : Reg)
  | qaddImm (rd ra : Reg) (ext : Word)
  | qsubReg (rd ra : Reg)
  | qsubImm (rd ra : Reg) (ext : Word)
  | scv (rd ra : Reg) (ext : Word)
  -- branch and jump, OP 0x6
  | beq (ext : Word)
  | bne (ext : Word)
  | blt (ext : Word)
  | ble (ext : Word)
  | bgt (ext : Word)
  | bge (ext : Word)
  | jmp (ext : Word)
  | call (ext : Word)
  | ret
  -- stack, OP 0x7
  | push (rd : Reg)
  | pop (rd : Reg)
  -- MMIO, OP 0x8
  | inp (rd : Reg) (ext : Word)
  | out (rd : Reg) (ext : Word)
  -- atomic MMIO, OP 0x9
  | bset (rd : Reg) (ext : Word)
  | bclr (rd : Reg) (ext : Word)
  | btest (rd : Reg) (ext : Word)
  -- event, OP 0xA
  | ewait
  | eget (rd : Reg)
  | eret
deriving DecidableEq, Repr

end Sys2Proof
end

