-- ==== Sys2Proof/Machine/Costs.lean ====
section
/-! DEFINITION. The cycle table, the number of extension words, and the fixed numbers of the authority profile
(70_reset_and_hazards.md R340, 30_encoding.md R103, 00_scope.md R6). -/

namespace Sys2Proof

/-- The Cost column of the opcode table (R107, R340); for a branch the not-taken cost, which is also its base cost in
a fault (60_exceptions.md R274). -/
def Instr.baseCost : Instr → Nat
  | .nop => 1
  | .sync => 1
  | .halt => 1
  | .trap _ => 1
  | .swi _ => 1
  | .movReg _ _ => 1
  | .movImm _ _ => 1
  | .loadInd _ _ => 2
  | .loadDisp _ _ _ => 2
  | .loadAbs _ _ => 2
  | .loadPcrel _ _ => 2
  | .storeInd _ _ => 2
  | .storeDisp _ _ _ => 2
  | .storeAbs _ _ => 2
  | .storePcrel _ _ => 2
  | .addReg _ _ => 1
  | .addImm _ _ _ => 1
  | .subReg _ _ => 1
  | .subImm _ _ _ => 1
  | .andReg _ _ => 1
  | .andImm _ _ _ => 1
  | .orReg _ _ => 1
  | .orImm _ _ _ => 1
  | .xorReg _ _ => 1
  | .xorImm _ _ _ => 1
  | .shlReg _ _ => 1
  | .shlImm _ _ _ => 1
  | .shrReg _ _ => 1
  | .shrImm _ _ _ => 1
  | .cmpReg _ => 1
  | .cmpImm _ _ => 1
  | .mulReg _ _ => 2
  | .mulImm _ _ _ => 2
  | .mulhReg _ _ => 2
  | .mulhImm _ _ _ => 2
  | .divReg _ _ => 3
  | .divImm _ _ _ => 3
  | .modReg _ _ => 3
  | .modImm _ _ _ => 3
  | .qaddReg _ _ => 1
  | .qaddImm _ _ _ => 1
  | .qsubReg _ _ => 1
  | .qsubImm _ _ _ => 1
  | .scv _ _ _ => 1
  | .beq _ => 1
  | .bne _ => 1
  | .blt _ => 1
  | .ble _ => 1
  | .bgt _ => 1
  | .bge _ => 1
  | .jmp _ => 2
  | .call _ => 2
  | .ret => 2
  | .push _ => 1
  | .pop _ => 1
  | .inp _ _ => 4
  | .out _ _ => 4
  | .bset _ _ => 4
  | .bclr _ _ => 4
  | .btest _ _ => 4
  | .ewait => 1
  | .eget _ => 1
  | .eret => 4

/-- How many extension words the form has (R103): 1 in AM 010, 011, 100 and 101, 0 in AM 000 and 001. -/
def Instr.extWords : Instr → Nat
  | .nop => 0
  | .sync => 0
  | .halt => 0
  | .trap _ => 0
  | .swi _ => 1
  | .movReg _ _ => 0
  | .movImm _ _ => 1
  | .loadInd _ _ => 0
  | .loadDisp _ _ _ => 1
  | .loadAbs _ _ => 1
  | .loadPcrel _ _ => 1
  | .storeInd _ _ => 0
  | .storeDisp _ _ _ => 1
  | .storeAbs _ _ => 1
  | .storePcrel _ _ => 1
  | .addReg _ _ => 0
  | .addImm _ _ _ => 1
  | .subReg _ _ => 0
  | .subImm _ _ _ => 1
  | .andReg _ _ => 0
  | .andImm _ _ _ => 1
  | .orReg _ _ => 0
  | .orImm _ _ _ => 1
  | .xorReg _ _ => 0
  | .xorImm _ _ _ => 1
  | .shlReg _ _ => 0
  | .shlImm _ _ _ => 1
  | .shrReg _ _ => 0
  | .shrImm _ _ _ => 1
  | .cmpReg _ => 0
  | .cmpImm _ _ => 1
  | .mulReg _ _ => 0
  | .mulImm _ _ _ => 1
  | .mulhReg _ _ => 0
  | .mulhImm _ _ _ => 1
  | .divReg _ _ => 0
  | .divImm _ _ _ => 1
  | .modReg _ _ => 0
  | .modImm _ _ _ => 1
  | .qaddReg _ _ => 0
  | .qaddImm _ _ _ => 1
  | .qsubReg _ _ => 0
  | .qsubImm _ _ _ => 1
  | .scv _ _ _ => 1
  | .beq _ => 1
  | .bne _ => 1
  | .blt _ => 1
  | .ble _ => 1
  | .bgt _ => 1
  | .bge _ => 1
  | .jmp _ => 1
  | .call _ => 1
  | .ret => 0
  | .push _ => 0
  | .pop _ => 0
  | .inp _ _ => 1
  | .out _ _ => 1
  | .bset _ _ => 1
  | .bclr _ _ => 1
  | .btest _ _ => 1
  | .ewait => 0
  | .eget _ => 0
  | .eret => 0

namespace Machine

/-- BUDGET (R6): the value of TICK at or above which a budget fault is raised. -/
def budget : Nat := 640

/-- DISPATCH_COST (R6, R274). -/
def dispatchCost : Nat := 5

/-- EVQ_DEPTH (R6, R40). -/
def evqDepth : Nat := 4

/-- The taken cost of a conditional branch (R202, R340). -/
def takenCost : Nat := 2

end Machine

end Sys2Proof
end

