-- ==== Sys2Proof/Machine/Bits.lean ====
section
/-! DEFINITION. Bit fields, extension, byte order and saturation (00_scope.md R8 to R10, 20_memory.md R64). -/

namespace Sys2Proof.Machine

/-- `sext_8` (R10): bit 7 copied into bits 15..8. -/
def sext8 (b : Byte) : Word := b.signExtend 16

/-- `zext_8` (R10): zeros in bits 15..8. -/
def zext8 (b : Byte) : Word := b.setWidth 16

/-- `v[7:0]` (R8). -/
def loByte (v : Word) : Byte := v.extractLsb' 0 8

/-- `v[15:8]` (R8). -/
def hiByte (v : Word) : Byte := v.extractLsb' 8 8

/-- The word whose bits 15..8 are `hi` and bits 7..0 are `lo`. R64: the byte at the even address is `hi`
(PRESUMED by the spec itself, log entry 18). -/
def wordOf (hi lo : Byte) : Word := hi ++ lo

/-- `sat_s16` (R10): an integer clamped to -32768..32767, as a 16-bit pattern. -/
def satS16 (n : Int) : Word := BitVec.ofInt 16 (max (-32768) (min 32767 n))

/-- A saturating 16-bit counter's next value (R46). -/
def satInc (v : Word) : Word := if v = 0xFFFF#16 then 0xFFFF#16 else v + 1#16

end Sys2Proof.Machine
end

