-- ==== Sys2Proof/Machine/Types.lean ====
section
/-! DEFINITION. The plain data the state is built of: fault kinds, dispatch classes, run states, inputs, flags, the
register file, the diagnostics record and the device history (10_state.md R21 to R46, 60_exceptions.md R260, R261). -/

namespace Sys2Proof.Machine

/-- The eight fault kinds (R261). -/
inductive FaultKind where
  /-- FK_ILLEGAL: an illegal encoding (R111, R114). -/
  | illegal
  /-- FK_ACCESS: a data access the region's policy forbids (R62, R70 to R72). -/
  | access
  /-- FK_MMIO: an odd address in the MMIO region, or in an MMIO instruction (R70 to R72). -/
  | mmio
  /-- FK_UNALIGNED: an odd data address outside the MMIO region (R69). -/
  | unaligned
  /-- FK_FETCH: a fetch from an odd address or from MMIO, DIAG or Reserved (R68). -/
  | fetch
  /-- FK_EVQ_OVERFLOW: an event was posted to a full queue (R284). -/
  | evqOverflow
  /-- FK_ERET_CONTEXT: ERET outside handler context (R252). -/
  | eretContext
  /-- FK_BUDGET: TICK reached BUDGET (R290). -/
  | budget
deriving DecidableEq, Repr

/-- The three dispatch classes (R261). -/
inductive DispatchClass where
  | trap
  | event
  | fault
deriving DecidableEq, Repr

/-- RUNSTATE (R42). -/
inductive RunState where
  | run
  | haltTick
  | haltBudget
  | haltPerm
deriving DecidableEq, Repr

/-- What the environment may do to the core at an instruction boundary (R260). -/
inductive Input where
  /-- External reset (R320). -/
  | reset
  /-- The tick boundary (R292). -/
  | tick
  /-- An event is posted (R284). -/
  | enqueue (id : Byte)
deriving DecidableEq, Repr

/-- The five regions of the address space (20_memory.md R61). -/
inductive Region where
  | rom
  | ram
  | mmio
  | diag
  | reserved
deriving DecidableEq, Repr

/-- The six defined flags (R26). -/
inductive Flag where
  | z | n | c | v | i | f
deriving DecidableEq, Repr

/-- The register file R0 to R7 (R21). -/
structure RegFile where
  r0 : Word
  r1 : Word
  r2 : Word
  r3 : Word
  r4 : Word
  r5 : Word
  r6 : Word
  r7 : Word
deriving DecidableEq, Repr

/-- The per-kind fault counters of the diagnostics record (R46). -/
structure FaultCounts where
  illegal : Word
  access : Word
  mmio : Word
  unaligned : Word
  fetch : Word
  evqOverflow : Word
  eretContext : Word
  budget : Word
deriving DecidableEq, Repr, Inhabited

/-- DIAG, the record behind the diagnostics window (R46). -/
structure Diag where
  lastFaultCode : Byte
  lastFaultPc : Word
  lastFaultTick : Word
  faultCount : FaultCounts
  instrCount : Word
deriving DecidableEq, Repr, Inhabited

/-- One access that reached a device (R75, R79). -/
inductive BusAccess where
  /-- The device at `a` was read and answered `v`. -/
  | read (a v : Word)
  /-- The device at `a` received `v`. -/
  | write (a v : Word)
deriving DecidableEq, Repr

end Sys2Proof.Machine
end

