-- ==== Sys2Proof/Machine/Flags.lean ====
section
/-! DEFINITION. FLAGS: its bits, every flag computation of the instruction set, and the branch conditions (10_state.md
R26, R27; 42_integer_alu.md R161 to R168; 44_branch_jump.md R200). -/

namespace Sys2Proof.Machine

/-- The bit a flag is (R26). -/
def Flag.bit : Flag → Nat
  | .z => 0
  | .n => 1
  | .c => 2
  | .v => 3
  | .i => 4
  | .f => 5

/-- A flag of a FLAGS word. -/
def getFlag (k : Flag) (w : Word) : Bool := w.getLsbD k.bit

/-- The FLAGS word with one flag written and every other bit kept. -/
def putFlag (k : Flag) (b : Bool) (w : Word) : Word :=
  if b then w ||| (1#16 <<< k.bit) else w &&& ~~~(1#16 <<< k.bit)

/-- `SetZN(v)` (R11). -/
def setZN (v w : Word) : Word := putFlag .n (v.getLsbD 15) (putFlag .z (v == 0#16) w)

/-- Z and N, C and V as given. -/
def setZNCV (v : Word) (c o : Bool) (w : Word) : Word := putFlag .v o (putFlag .c c (setZN v w))

/-- The row of R27 that sets Z and N and clears C and V: MOV, LOAD, IN, AND, OR, XOR, QADD, QSUB, SCV. -/
def moveFlags (v w : Word) : Word := setZNCV v false false w

/-- An exact signed result does not fit 16 bits (R161, R162). -/
def overflows (n : Int) : Bool := decide (n < -32768 ∨ 32767 < n)

/-- The flags of ADD (R161). -/
def addFlags (a b w : Word) : Word :=
  setZNCV (a + b) (decide (65536 ≤ a.toNat + b.toNat)) (overflows (a.toInt + b.toInt)) w

/-- The flags of SUB and CMP (R162, R168): C is the borrow. -/
def subFlags (a b w : Word) : Word :=
  setZNCV (a - b) (decide (a.toNat < b.toNat)) (overflows (a.toInt - b.toInt)) w

/-- The flags of SHL and SHR (R166, R167): `r` the result, `last` the last bit shifted out, C kept when the count is 0. -/
def shiftFlags (r : Word) (count : Nat) (last : Bool) (w : Word) : Word :=
  setZNCV r (if count = 0 then getFlag .c w else last) false w

/-- The flags of BTEST (R243): Z alone, set when the tested bit is 0. -/
def testFlags (tested : Bool) (w : Word) : Word := putFlag .z (!tested) w

/-- What a dispatch entry makes of FLAGS (R270 step 6): I cleared; F set in a FAULT entry. -/
def entryFlags (cls : DispatchClass) (w : Word) : Word :=
  match cls with
  | .trap => putFlag .i false w
  | .event => putFlag .i false w
  | .fault => putFlag .f true (putFlag .i false w)

/-- What ERET makes of the popped word (R252, R26): bits 15..6 are dropped. -/
def poppedFlags (w : Word) : Word := w &&& 0x003F#16

/-! ## The branch conditions (R200) -/

def condEq (w : Word) : Bool := getFlag .z w
def condNe (w : Word) : Bool := !getFlag .z w
def condLt (w : Word) : Bool := getFlag .n w != getFlag .v w
def condLe (w : Word) : Bool := getFlag .z w || getFlag .n w != getFlag .v w
def condGt (w : Word) : Bool := !getFlag .z w && getFlag .n w == getFlag .v w
def condGe (w : Word) : Bool := getFlag .n w == getFlag .v w

end Sys2Proof.Machine
end

