-- ==== Sys2Proof/Config.lean ====
section
/-! DEFINITION. The parameters the source leaves open (00_scope.md R7): constants with no body, so that no proof can see
their values. A `draw` is the number of the question put to the environment, so that two questions may be answered
differently. -/

namespace Sys2Proof

/-- `fault_code` (R7, R261, decision D10): the profile's code of each fault kind. Log entry 5. -/
opaque Config.faultCode : Machine.FaultKind → Byte

/-- `device_read` (R7, R75, decision D34): what the device at an address answers, given the number of the question and all
that has reached the devices before it. Log entry 6. -/
opaque Config.deviceRead : Nat → List Machine.BusAccess → Word → Word

/-- `voter_allows` (R7, R79, decision D33): whether the voter lets a write of a word to an MMIO address through. Log entry 7. -/
opaque Config.voterAllows : Nat → List Machine.BusAccess → Word → Word → Bool

/-- `diag_read` (R7, R46, decision D32): what the diagnostics window reads as at an address, given the diagnostics record
and the inhibit latch. Log entry 8. -/
opaque Config.diagRead : Machine.Diag → Bool → Word → Word

/-- `evp_of` (R7, R31, decision D31) on a non-empty queue; on the empty queue the spec fixes 0 (`Machine.evpOf`).
Log entry 9. -/
opaque Config.evpOfNonEmpty : List Byte → Word

/-- The DIAG record after the reset input, which the spec leaves unspecified (R51). Log entry 3. -/
opaque Config.diagAfterReset : Nat → Machine.Diag

/-- `ram_init` (R7, R52, decision D35): RAM after the reset input, as writes to be made over a RAM of 0x00 bytes; an
arbitrary list gives an arbitrary content. Log entry 4. -/
opaque Config.ramAfterReset : Nat → List (Nat × Byte)

end Sys2Proof
end

