-- ==== Sys2Proof/Machine/Memory.lean ====
section
/-! DEFINITION. ROM and RAM as a sorted list of (address, byte) pairs in one canonical form, and the big-endian words
built from it (20_memory.md R60, R64). -/

namespace Sys2Proof.Machine

/-- The listed bytes, addresses strictly rising, none equal to `Memory.unlisted`. -/
abbrev Memory := List Host.Cell

/-- What an address that is not listed reads as (DESIGN CHOICE, log entry 1). -/
def Memory.unlisted : Byte := 0x00#8

/-- The byte at an address. -/
def Memory.read : Memory → Nat → Byte
  | [], _ => Memory.unlisted
  | (k, b) :: m, a => if a = k then b else Memory.read m a

/-- The memory with no entry for an address. -/
def Memory.erase : Memory → Nat → Memory
  | [], _ => []
  | (k, b) :: m, a => if a = k then Memory.erase m a else (k, b) :: Memory.erase m a

/-- The memory with an entry for an address, at its place in the order. -/
def Memory.insert : Memory → Nat → Byte → Memory
  | [], a, v => [(a, v)]
  | (k, b) :: m, a, v =>
    if a = k then (a, v) :: m else if a < k then (a, v) :: (k, b) :: m else (k, b) :: Memory.insert m a v

/-- Write one byte, keeping the canonical form. -/
def Memory.write (m : Memory) (a : Nat) (v : Byte) : Memory :=
  if v = Memory.unlisted then Memory.erase m a else Memory.insert m a v

/-- Every listed address is above `lo` (none is asked for when `lo` is none), they rise strictly, and no listed byte is the
unlisted one. -/
def Memory.wfFrom : Option Nat → Memory → Bool
  | _, [] => true
  | lo, (k, b) :: m =>
    (match lo with | none => true | some l => decide (l < k)) && decide (b ≠ Memory.unlisted) && Memory.wfFrom (some k) m

/-- The canonical form. -/
def Memory.wf (m : Memory) : Bool := Memory.wfFrom none m

/-- The word at an even address (R64): the byte at `a` is bits 15..8. -/
def Memory.readWord (m : Memory) (a : Word) : Word := wordOf (m.read a.toNat) (m.read (a.toNat + 1))

/-- Write a word at an even address (R64). -/
def Memory.writeWord (m : Memory) (a v : Word) : Memory :=
  (m.write a.toNat (hiByte v)).write (a.toNat + 1) (loByte v)

/-- The bytes of ROM, addresses 0x0000..0x3FFF (R61). -/
def Memory.romPart (m : Memory) : Memory := m.filter (fun c => c.1 < 0x4000)

/-- Write those of the given bytes that lie in RAM, 0x4000..0xDFFF (R61). -/
def Memory.loadRam (m : Memory) (cells : List Host.Cell) : Memory :=
  cells.foldl (fun m c => if 0x4000 ≤ c.1 ∧ c.1 < 0xE000 then m.write c.1 c.2 else m) m

end Sys2Proof.Machine
end

