-- ==== Sys2Proof/Machine/State.lean ====
section
/-! DEFINITION. The machine's state, the reasons a step can stop, and the state after reset (10_state.md R20 to R52,
70_reset_and_hazards.md R320). -/

namespace Sys2Proof.Machine

/-- Everything the spec gives the machine. The last three fields are the model's own: they hold what the spec makes an
input or an oracle of the step (10_state.md R47, 60_exceptions.md R260). -/
structure State where
  /-- R0 to R7 (R21). -/
  regs : RegFile
  /-- PC (R22). -/
  pc : Word
  /-- SP (R25). -/
  sp : Word
  /-- FLAGS (R26). -/
  flags : Word
  /-- TICK (R29). -/
  tick : Word
  /-- CAP (R28). -/
  cap : Word
  /-- CAUSE (R30). -/
  cause : Word
  /-- EVP (R31). -/
  evp : Word
  /-- EVQ, head first (R40). -/
  evq : List Byte
  /-- QOVF (R41). -/
  qovf : Bool
  /-- RUNSTATE (R42). -/
  runState : RunState
  /-- BRECOV (R43). -/
  brecov : Bool
  /-- HCTX, the newest dispatch first (R44). -/
  hctx : List DispatchClass
  /-- INHIBIT (R45). -/
  inhibit : Bool
  /-- DIAG (R46). -/
  diag : Diag
  /-- ROM and RAM (R60, R61). -/
  mem : Memory
  /-- The model's own: what has reached the devices, newest first (R75, R79). Log entry 12. -/
  bus : List BusAccess
  /-- The model's own: how many questions have been put to the environment. Log entry 6. -/
  draws : Nat
  /-- The model's own: the inputs the environment has pending at the coming boundaries, the nearest first (R260, R262). Log
  entry 10. -/
  env : List (List Input)
deriving DecidableEq, Repr

/-- The reasons for which the MACHINE itself stops for good. There is none: every fault the spec names is dispatched to a
handler or ends in the RUNSTATE HALT_PERM, which is a state and not a stop (R280, R282, R293). Log entry 22. -/
inductive Fault : Type where
deriving DecidableEq, Repr

/-- The reasons for which the MODEL gives no answer. -/
inductive Refusal where
  /-- An instruction without a meaning yet: raised by the instruction's own arm of `exec` and by nothing else; safe, since
  nothing is claimed of it. No arm raises it in this model. -/
  | notModelled (mnemonic : String)
deriving DecidableEq, Repr

/-- The register file after reset (R50). -/
def RegFile.reset : RegFile := ⟨0#16, 0#16, 0#16, 0#16, 0#16, 0#16, 0#16, 0#16⟩

/-- The DIAG record of `State.reset` (the spec gives none: DESIGN CHOICE, log entry 3). -/
def Diag.blank : Diag := ⟨0#8, 0#16, 0#16, ⟨0#16, 0#16, 0#16, 0#16, 0#16, 0#16, 0#16, 0#16⟩, 0#16⟩

/-- The machine right after reset (R50, R51, R320). -/
def State.reset : State where
  regs := RegFile.reset
  pc := 0x0000#16
  sp := 0xE000#16
  flags := 0x0000#16
  tick := 0x0000#16
  cap := 0x000F#16
  cause := 0x0000#16
  evp := 0x0000#16
  evq := []
  qovf := false
  runState := .run
  brecov := false
  hctx := []
  inhibit := false
  diag := Diag.blank
  mem := []
  bus := []
  draws := 0
  env := []

end Sys2Proof.Machine
end

