-- ==== Sys2Proof/Machine/Ops.lean ====
section
/-! DEFINITION. The named operations on the state: registers, memory and device accesses, the stack, the tick budget,
taking a dispatch (trap, event, fault) and returning from one (20_memory.md R61 to R79, 45_stack.md R220,
48_event.md R252, 60_exceptions.md R270 to R290). -/

namespace Sys2Proof.Machine

/-! ## Registers -/

/-- A general register's value (R21). -/
def RegFile.get (f : RegFile) : Reg → Word
  | .r0 => f.r0
  | .r1 => f.r1
  | .r2 => f.r2
  | .r3 => f.r3
  | .r4 => f.r4
  | .r5 => f.r5
  | .r6 => f.r6
  | .r7 => f.r7

/-- The register file with one register written (R21). -/
def RegFile.set (f : RegFile) (r : Reg) (v : Word) : RegFile :=
  match r with
  | .r0 => { f with r0 := v }
  | .r1 => { f with r1 := v }
  | .r2 => { f with r2 := v }
  | .r3 => { f with r3 := v }
  | .r4 => { f with r4 := v }
  | .r5 => { f with r5 := v }
  | .r6 => { f with r6 := v }
  | .r7 => { f with r7 := v }

/-- `R[i]` (R11). -/
def State.reg (s : State) (r : Reg) : Word := s.regs.get r

/-- `R[i] <- v` (R11). -/
def State.setReg (s : State) (r : Reg) (v : Word) : State := { s with regs := s.regs.set r v }

/-- `FLAGS.Z` and the others (R11). -/
def State.flag (s : State) (k : Flag) : Bool := getFlag k s.flags

def State.setPc (s : State) (v : Word) : State := { s with pc := v }
def State.setSp (s : State) (v : Word) : State := { s with sp := v }
def State.setFlags (s : State) (v : Word) : State := { s with flags := v }
def State.setTick (s : State) (v : Word) : State := { s with tick := v }
def State.setCause (s : State) (v : Word) : State := { s with cause := v }
def State.setQovf (s : State) (b : Bool) : State := { s with qovf := b }
def State.setRunState (s : State) (r : RunState) : State := { s with runState := r }
def State.setBrecov (s : State) (b : Bool) : State := { s with brecov := b }
def State.setHctx (s : State) (h : List DispatchClass) : State := { s with hctx := h }
def State.setDiag (s : State) (d : Diag) : State := { s with diag := d }
def State.setMem (s : State) (m : Memory) : State := { s with mem := m }
def State.setEnv (s : State) (e : List (List Input)) : State := { s with env := e }

/-- EVP as a function of EVQ (R31): 0 on the empty queue, else the open parameter. -/
def evpOf : List Byte → Word
  | [] => 0x0000#16
  | id :: q => Config.evpOfNonEmpty (id :: q)

/-- Write EVQ; EVP follows it (R31, R284). -/
def State.setEvq (s : State) (q : List Byte) : State := { s with evq := q, evp := evpOf q }

/-- `PC_next` of an instruction (R11, R23). -/
def State.pcNext (i : Instr) (s : State) : Word := s.pc + BitVec.ofNat 16 (2 * (1 + i.extWords))

/-! ## Regions and memory access -/

/-- `region(a)` (R61). -/
def region (a : Word) : Region :=
  if a.toNat < 0x4000 then .rom
  else if a.toNat < 0xE000 then .ram
  else if a.toNat < 0xF000 then .mmio
  else if a.toNat < 0xF100 then .diag
  else .reserved

/-- `a[0] == 1`. -/
def isOdd (a : Word) : Bool := a.getLsbD 0

/-- `Fetch(a)` (R68). -/
def fetchWord (a : Word) (s : State) : Except FaultKind Word :=
  if isOdd a then .error .fetch
  else
    match region a with
    | .rom => .ok (s.mem.readWord a)
    | .ram => .ok (s.mem.readWord a)
    | .mmio => .error .fetch
    | .diag => .error .fetch
    | .reserved => .error .fetch

/-- What the device at `a` answers if it is read now (R75). -/
def State.deviceAnswer (s : State) (a : Word) : Word := Config.deviceRead s.draws s.bus a

/-- The state after a device read at `a` (R75). -/
def State.busRead (s : State) (a : Word) : State :=
  { s with bus := .read a (s.deviceAnswer a) :: s.bus, draws := s.draws + 1 }

/-- Whether the voter lets a write of `v` to the device at `a` through, if it is asked now (R79). -/
def State.voterAllows (s : State) (a v : Word) : Bool := Config.voterAllows s.draws s.bus a v

/-- A write in the MMIO region (R79): handed to the device if the voter allows it, else suppressed and INHIBIT latched. -/
def State.busWrite (s : State) (a v : Word) : State :=
  { s with
    bus := if s.voterAllows a v then .write a v :: s.bus else s.bus
    inhibit := s.inhibit || !s.voterAllows a v
    draws := s.draws + 1 }

/-- The kind of an odd data access (R70, R71). -/
def oddKind (a : Word) : FaultKind := if region a = .mmio then .mmio else .unaligned

/-- `MemRead(a, 2)` (R70): the word, and the state after the read. -/
def memRead (a : Word) (s : State) : Except FaultKind (Word × State) :=
  if isOdd a then .error (oddKind a)
  else
    match region a with
    | .rom => .ok (s.mem.readWord a, s)
    | .ram => .ok (s.mem.readWord a, s)
    | .mmio => .ok (s.deviceAnswer a, s.busRead a)
    | .diag => .ok (Config.diagRead s.diag s.inhibit a, s)
    | .reserved => .error .access

/-- `MemWrite(a, 2, v)` (R71). -/
def memWrite (a v : Word) (s : State) : Except FaultKind State :=
  if isOdd a then .error (oddKind a)
  else
    match region a with
    | .rom => .error .access
    | .ram => .ok (s.setMem (s.mem.writeWord a v))
    | .mmio => .ok (s.busWrite a v)
    | .diag => .error .access
    | .reserved => .error .access

/-- The checks of `MmioRead` and `MmioWrite` (R72): the kind of the fault, if there is one. -/
def mmioFault (a : Word) : Option FaultKind :=
  if isOdd a then some .mmio else if region a = .mmio then none else some .access

/-- `MmioRead(a)` (R72). -/
def mmioRead (a : Word) (s : State) : Except FaultKind (Word × State) :=
  match mmioFault a with
  | some k => .error k
  | none => .ok (s.deviceAnswer a, s.busRead a)

/-- `MmioWrite(a, v)` (R72). -/
def mmioWrite (a v : Word) (s : State) : Except FaultKind State :=
  match mmioFault a with
  | some k => .error k
  | none => .ok (s.busWrite a v)

/-! ## The stack (R220) -/

/-- `Push(v)`: SP moves only when the store succeeds. -/
def pushWord (v : Word) (s : State) : Except FaultKind State :=
  match memWrite (s.sp - 2#16) v s with
  | .ok t => .ok (t.setSp (s.sp - 2#16))
  | .error k => .error k

/-- `Pop()`. -/
def popWord (s : State) : Except FaultKind (Word × State) :=
  match memRead s.sp s with
  | .ok (v, t) => .ok (v, t.setSp (s.sp + 2#16))
  | .error k => .error k

/-! ## The diagnostics record (R46) -/

/-- The counter of a fault kind. -/
def FaultCounts.get (c : FaultCounts) : FaultKind → Word
  | .illegal => c.illegal
  | .access => c.access
  | .mmio => c.mmio
  | .unaligned => c.unaligned
  | .fetch => c.fetch
  | .evqOverflow => c.evqOverflow
  | .eretContext => c.eretContext
  | .budget => c.budget

/-- The counters after one more fault of a kind, saturating at 0xFFFF. -/
def FaultCounts.bump (c : FaultCounts) (k : FaultKind) : FaultCounts :=
  match k with
  | .illegal => { c with illegal := satInc c.illegal }
  | .access => { c with access := satInc c.access }
  | .mmio => { c with mmio := satInc c.mmio }
  | .unaligned => { c with unaligned := satInc c.unaligned }
  | .fetch => { c with fetch := satInc c.fetch }
  | .evqOverflow => { c with evqOverflow := satInc c.evqOverflow }
  | .eretContext => { c with eretContext := satInc c.eretContext }
  | .budget => { c with budget := satInc c.budget }

/-- What a fault of kind `k` leaves in the record (R280 step 3, R290): its code, the PC and TICK it was raised at, and its
kind's counter. -/
def Diag.record (d : Diag) (k : FaultKind) (pc tick : Word) : Diag :=
  { d with
    lastFaultCode := Config.faultCode k
    lastFaultPc := pc
    lastFaultTick := tick
    faultCount := d.faultCount.bump k }

/-- One more instruction has retired (R46, R262 step 4). -/
def Diag.countInstr (d : Diag) : Diag := { d with instrCount := satInc d.instrCount }

/-- R280 step 3 and the first lines of R290. -/
def State.recordFault (s : State) (k : FaultKind) : State := s.setDiag (s.diag.record k s.pc s.tick)

/-- The executed-instruction counter's step (R262 step 4). -/
def State.countInstr (s : State) : State := s.setDiag s.diag.countInstr

/-! ## TICK and the budget (R290) -/

/-- Where a budget fault halts the core (R290): for good in the recovery tick. -/
def budgetHalt (brecov : Bool) : RunState :=
  match brecov with
  | true => .haltPerm
  | false => .haltBudget

/-- The budget check. A budget fault is never dispatched: no CAUSE, no frame, no flag. -/
def budgetCheck (s : State) : State :=
  if budget ≤ s.tick.toNat then
    (s.recordFault .budget).setRunState (budgetHalt s.brecov)
  else s

/-- Add `n` cycles to TICK; the budget check follows (R290). -/
def charge (n : Nat) (s : State) : State := budgetCheck (s.setTick (s.tick + BitVec.ofNat 16 n))

/-- Retirement (R262 step 4): the instruction is counted, its cost charged, the budget checked. -/
def retire (cost : Nat) (s : State) : State := charge cost s.countInstr

/-! ## Dispatch: taking a trap, an event or a fault (R270 to R282) -/

/-- `vector(class)` (R271). -/
def vectorAddr : DispatchClass → Word
  | .trap => 0x0008#16
  | .event => 0x000A#16
  | .fault => 0x000C#16

/-- CAUSE[15:12] of a class (R261). -/
def classNumber : DispatchClass → Word
  | .trap => 0x1000#16
  | .event => 0x2000#16
  | .fault => 0x3000#16

/-- The CAUSE word of a dispatch (R270 step 1, R30): subcode 0. -/
def causeWord (cls : DispatchClass) (code : Byte) : Word := classNumber cls ||| zext8 code

/-- Steps 6 to 8 of R270, with `old` the FLAGS from before the entry and `ctx` the handler context from before it. -/
def enterHandler (cls : DispatchClass) (old : Word) (ctx : List DispatchClass) (s : State) : State :=
  ((s.setFlags (entryFlags cls old)).setPc (s.mem.readWord (vectorAddr cls))).setHctx (cls :: ctx)

/-- `Dispatch(class, code, resume)` without its step 9 (R270). All or nothing (R273): the error is the kind of the first
push that cannot be made, and then no state is given at all. -/
def enter (cls : DispatchClass) (code : Byte) (resume : Word) (s : State) : Except FaultKind State :=
  match pushWord resume ((s.setCause (causeWord cls code)).setReg .r0 (causeWord cls code &&& 0x00FF#16)) with
  | .error k => .error k
  | .ok s1 =>
    match pushWord s.flags s1 with
    | .error k => .error k
    | .ok s2 =>
      match pushWord (causeWord cls code) s2 with
      | .error k => .error k
      | .ok s3 => .ok (enterHandler cls s.flags s.hctx s3)

/-- `raise Fault(kind)` for every kind but FK_BUDGET (R280): `base` is the base cost of R274. The double fault of R282 ends
in HALT_PERM with nothing changed but DIAG. -/
def raiseFault (k : FaultKind) (base : Nat) (s : State) : State :=
  if s.hctx.contains .fault then (s.recordFault k).setRunState .haltPerm
  else
    match enter .fault (Config.faultCode k) s.pc (s.recordFault k) with
    | .ok t => charge (base + dispatchCost) t
    | .error _ => (s.recordFault k).setRunState .haltPerm

/-- A software trap issued by `i` (R143, R144, R270): the issue cost and the entry cost are one addition (R262). A push
that cannot be made is a fault of the issuing instruction (R273). -/
def raiseTrap (i : Instr) (id : Byte) (s : State) : State :=
  match enter .trap id (s.pcNext i) s with
  | .ok t => charge (i.baseCost + dispatchCost) t.countInstr
  | .error k => raiseFault k i.baseCost s

/-- The EVENT dispatch of the queue's head (R285): on a failed push the fault is raised and the queue is unchanged. -/
def dispatchEvent (id : Byte) (rest : List Byte) (s : State) : State :=
  match enter .event id s.pc s with
  | .ok t => charge dispatchCost (t.setEvq rest)
  | .error k => raiseFault k 0 s

/-- The three pops of ERET (R252), without its cost: all three reads are made before anything is written, and a read that
fails gives no state at all. -/
def leaveHandler (s : State) : Except FaultKind State :=
  match s.hctx with
  | [] => .error .eretContext
  | _ :: ctx =>
    match memRead s.sp s with
    | .error k => .error k
    | .ok (c, s1) =>
      match memRead (s.sp + 2#16) s1 with
      | .error k => .error k
      | .ok (w, s2) =>
        match memRead (s.sp + 4#16) s2 with
        | .error k => .error k
        | .ok (p, s3) =>
          .ok (((((s3.setSp (s.sp + 6#16)).setCause c).setFlags (poppedFlags w)).setPc p).setHctx ctx)

/-! ## How an instruction ends -/

/-- The outcome of an instruction (R262 step 4): a retirement with its cost, or the fault its checks found, raised from the
state before it (R263, R280). -/
def finish (i : Instr) (s : State) (r : Except FaultKind State) : Host.Outcome State Fault Refusal :=
  match r with
  | .ok t => .next (retire i.baseCost t)
  | .error k => .next (raiseFault k i.baseCost s)

end Sys2Proof.Machine
end

