-- ==== Sys2Proof/WellFormed.lean ====
section
/-! DEFINITION. Which instruction terms are legal: the extension-word checks (30_encoding.md R114). Every other
operand is legal at every value its type has. -/

namespace Sys2Proof

/-- The AM 010 sign copy (R105): the extension word is the sign extension of its own low byte. -/
def dispLegal (ext : Word) : Bool := ext == Machine.sext8 (Machine.loByte ext)

/-- SWI's extension word (R106): the high byte is 0. -/
def swiLegal (ext : Word) : Bool := Machine.hiByte ext == 0#8

/-- SCV's control word (R106): bits 14..4 are 0. -/
def scvLegal (ext : Word) : Bool := ext.extractLsb' 4 11 == 0#11

/-- R114: the only extension words that are constrained are those of AM 010, SWI and SCV. -/
def Instr.wellFormed : Instr → Bool
  | .loadDisp _ _ ext => dispLegal ext
  | .storeDisp _ _ ext => dispLegal ext
  | .swi ext => swiLegal ext
  | .scv _ _ ext => scvLegal ext
  | .nop => true
  | .sync => true
  | .halt => true
  | .trap _ => true
  | .movReg _ _ => true
  | .movImm _ _ => true
  | .loadInd _ _ => true
  | .loadAbs _ _ => true
  | .loadPcrel _ _ => true
  | .storeInd _ _ => true
  | .storeAbs _ _ => true
  | .storePcrel _ _ => true
  | .addReg _ _ => true
  | .addImm _ _ _ => true
  | .subReg _ _ => true
  | .subImm _ _ _ => true
  | .andReg _ _ => true
  | .andImm _ _ _ => true
  | .orReg _ _ => true
  | .orImm _ _ _ => true
  | .xorReg _ _ => true
  | .xorImm _ _ _ => true
  | .shlReg _ _ => true
  | .shlImm _ _ _ => true
  | .shrReg _ _ => true
  | .shrImm _ _ _ => true
  | .cmpReg _ => true
  | .cmpImm _ _ => true
  | .mulReg _ _ => true
  | .mulImm _ _ _ => true
  | .mulhReg _ _ => true
  | .mulhImm _ _ _ => true
  | .divReg _ _ => true
  | .divImm _ _ _ => true
  | .modReg _ _ => true
  | .modImm _ _ _ => true
  | .qaddReg _ _ => true
  | .qaddImm _ _ _ => true
  | .qsubReg _ _ => true
  | .qsubImm _ _ _ => true
  | .beq _ => true
  | .bne _ => true
  | .blt _ => true
  | .ble _ => true
  | .bgt _ => true
  | .bge _ => true
  | .jmp _ => true
  | .call _ => true
  | .ret => true
  | .push _ => true
  | .pop _ => true
  | .inp _ _ => true
  | .out _ _ => true
  | .bset _ _ => true
  | .bclr _ _ => true
  | .btest _ _ => true
  | .ewait => true
  | .eget _ => true
  | .eret => true

end Sys2Proof
end

