-- ==== Sys2Proof/Machine/Operands.lean ====
section
/-! DEFINITION. The operand forms: effective addresses, PC-relative targets, and the shapes shared by the
instructions of a family (30_encoding.md R103 to R106, R120, R121; 44_branch_jump.md R201). -/

namespace Sys2Proof.Machine

/-! ## Effective addresses (R103); AM 011 is the extension word itself -/

/-- AM 001. -/
def eaInd (ra : Reg) (s : State) : Word := s.reg ra

/-- AM 010: the displacement is the sign extension of the extension word's low byte (R105). -/
def eaDisp (ra : Reg) (ext : Word) (s : State) : Word := s.reg ra + sext8 (loByte ext)

/-- AM 101, also the target of every PC-relative transfer (R201): `PC_next + s(ext16)` modulo 65536. -/
def relTarget (i : Instr) (ext : Word) (s : State) : Word := s.pcNext i + ext

/-! ## Register results -/

/-- Write a result and FLAGS and advance PC (R12 steps 5 to 7). -/
def writeResult (i : Instr) (rd : Reg) (v fl : Word) (s : State) : State :=
  ((s.setReg rd v).setFlags fl).setPc (s.pcNext i)

/-- An instruction that cannot fault and writes a register, FLAGS and PC. -/
def aluResult (i : Instr) (rd : Reg) (v fl : Word) (s : State) : Host.Outcome State Fault Refusal :=
  .next (retire i.baseCost (writeResult i rd v fl s))

/-! ## Loads and stores -/

/-- LOAD from an effective address (R151). -/
def loadFrom (i : Instr) (rd : Reg) (ea : Word) (s : State) : Host.Outcome State Fault Refusal :=
  match memRead ea s with
  | .error k => finish i s (.error k)
  | .ok (v, t) => finish i s (.ok (((t.setReg rd v).setFlags (moveFlags v s.flags)).setPc (s.pcNext i)))

/-- STORE to an effective address (R152). -/
def storeTo (i : Instr) (rd : Reg) (ea : Word) (s : State) : Host.Outcome State Fault Refusal :=
  match memWrite ea (s.reg rd) s with
  | .error k => finish i s (.error k)
  | .ok t => finish i s (.ok (t.setPc (s.pcNext i)))

/-- The instruction's extension word breaks R114: FK_ILLEGAL. -/
def illegalExt (i : Instr) (s : State) : Host.Outcome State Fault Refusal := finish i s (.error .illegal)

/-! ## Shifts (R166, R167, R187) -/

/-- `B[3:0]`. -/
def shiftCount (b : Word) : Nat := (b.extractLsb' 0 4).toNat

/-- The result of SHL. -/
def shlValue (a : Word) (n : Nat) : Word := BitVec.ofNat 16 (a.toNat * 2 ^ n)

/-- The result of SHR: floor of the signed value over 2^n. -/
def shrValue (a : Word) (n : Nat) : Word := BitVec.ofInt 16 (a.toInt / 2 ^ n)

/-- The last bit SHL shifts out, for a count above 0. -/
def shlLast (a : Word) (n : Nat) : Bool := a.getLsbD (16 - n)

/-- The last bit SHR shifts out, for a count above 0. -/
def shrLast (a : Word) (n : Nat) : Bool := a.getLsbD (n - 1)

/-! ## Multiplication, division, saturation (R181 to R187) -/

def mulValue (a b : Word) : Word := BitVec.ofNat 16 (a.toNat * b.toNat)
def mulhValue (a b : Word) : Word := BitVec.ofInt 16 (a.toInt * b.toInt / 65536)
def divValue (a b : Word) : Word := if b.toNat = 0 then 0#16 else BitVec.ofNat 16 (a.toNat / b.toNat)
def modValue (a b : Word) : Word :=
  if b.toNat = 0 then 0#16 else BitVec.ofNat 16 (a.toNat - b.toNat * (a.toNat / b.toNat))
def qaddValue (a b : Word) : Word := satS16 (a.toInt + b.toInt)
def qsubValue (a b : Word) : Word := satS16 (a.toInt - b.toInt)

/-- SCV (R187): bit 15 of the control word is the direction, bits 3..0 the count. -/
def scvValue (a ext : Word) : Word :=
  if ext.getLsbD 15 then BitVec.ofInt 16 (a.toInt / 2 ^ shiftCount ext) else satS16 (a.toInt * 2 ^ shiftCount ext)

/-! ## The families' shared meanings -/

def addWith (i : Instr) (rd : Reg) (a b : Word) (s : State) : Host.Outcome State Fault Refusal :=
  aluResult i rd (a + b) (addFlags a b s.flags) s
def subWith (i : Instr) (rd : Reg) (a b : Word) (s : State) : Host.Outcome State Fault Refusal :=
  aluResult i rd (a - b) (subFlags a b s.flags) s

/-- A result whose flags are Z and N from it with C and V cleared (R27). -/
def moveWith (i : Instr) (rd : Reg) (v : Word) (s : State) : Host.Outcome State Fault Refusal :=
  aluResult i rd v (moveFlags v s.flags) s

def shlWith (i : Instr) (rd : Reg) (a b : Word) (s : State) : Host.Outcome State Fault Refusal :=
  aluResult i rd (shlValue a (shiftCount b))
    (shiftFlags (shlValue a (shiftCount b)) (shiftCount b) (shlLast a (shiftCount b)) s.flags) s
def shrWith (i : Instr) (rd : Reg) (a b : Word) (s : State) : Host.Outcome State Fault Refusal :=
  aluResult i rd (shrValue a (shiftCount b))
    (shiftFlags (shrValue a (shiftCount b)) (shiftCount b) (shrLast a (shiftCount b)) s.flags) s

/-- CMP (R168): the flags of SUB and no result. -/
def cmpWith (i : Instr) (a b : Word) (s : State) : Host.Outcome State Fault Refusal :=
  finish i s (.ok ((s.setFlags (subFlags a b s.flags)).setPc (s.pcNext i)))

/-- A result that leaves FLAGS alone (R27: MUL, MULH, DIV, MOD). -/
def plainWith (i : Instr) (rd : Reg) (v : Word) (s : State) : Host.Outcome State Fault Refusal :=
  aluResult i rd v s.flags s

/-- An instruction whose only effect is to advance PC (R140, R141). -/
def advance (i : Instr) (s : State) : State := s.setPc (s.pcNext i)

/-- A conditional branch (R202): taken costs 2, not taken the base cost. -/
def branchIf (i : Instr) (taken : Bool) (ext : Word) (s : State) : Host.Outcome State Fault Refusal :=
  if taken then .next (retire takenCost (s.setPc (relTarget i ext s)))
  else .next (retire i.baseCost (advance i s))

end Sys2Proof.Machine
end

