-- ==== Sys2Proof/Machine/Alu.lean ====
section
/-! DEFINITION. The integer ALU (42_integer_alu.md R160 to R169). -/

namespace Sys2Proof.Machine

/-- ADD, register form: B is R0 (R161, R121). -/
def execAddReg (rd ra : Reg) (s : State) : Host.Outcome State Fault Refusal := addWith (.addReg rd ra) rd (s.reg ra) (s.reg .r0) s

/-- ADD, immediate form (R161). -/
def execAddImm (rd ra : Reg) (ext : Word) (s : State) : Host.Outcome State Fault Refusal := addWith (.addImm rd ra ext) rd (s.reg ra) ext s

/-- SUB, register form: B is R1 (R162, R121). -/
def execSubReg (rd ra : Reg) (s : State) : Host.Outcome State Fault Refusal := subWith (.subReg rd ra) rd (s.reg ra) (s.reg .r1) s

/-- SUB, immediate form (R162). -/
def execSubImm (rd ra : Reg) (ext : Word) (s : State) : Host.Outcome State Fault Refusal := subWith (.subImm rd ra ext) rd (s.reg ra) ext s

/-- AND, register form: B is R2 (R163, R121). -/
def execAndReg (rd ra : Reg) (s : State) : Host.Outcome State Fault Refusal := moveWith (.andReg rd ra) rd (s.reg ra &&& (s.reg .r2)) s

/-- AND, immediate form (R163). -/
def execAndImm (rd ra : Reg) (ext : Word) (s : State) : Host.Outcome State Fault Refusal := moveWith (.andImm rd ra ext) rd (s.reg ra &&& ext) s

/-- OR, register form: B is R3 (R164, R121). -/
def execOrReg (rd ra : Reg) (s : State) : Host.Outcome State Fault Refusal := moveWith (.orReg rd ra) rd (s.reg ra ||| (s.reg .r3)) s

/-- OR, immediate form (R164). -/
def execOrImm (rd ra : Reg) (ext : Word) (s : State) : Host.Outcome State Fault Refusal := moveWith (.orImm rd ra ext) rd (s.reg ra ||| ext) s

/-- XOR, register form: B is R4 (R165, R121). -/
def execXorReg (rd ra : Reg) (s : State) : Host.Outcome State Fault Refusal := moveWith (.xorReg rd ra) rd (s.reg ra ^^^ (s.reg .r4)) s

/-- XOR, immediate form (R165). -/
def execXorImm (rd ra : Reg) (ext : Word) (s : State) : Host.Outcome State Fault Refusal := moveWith (.xorImm rd ra ext) rd (s.reg ra ^^^ ext) s

/-- SHL, register form: B is R5 (R166, R121). -/
def execShlReg (rd ra : Reg) (s : State) : Host.Outcome State Fault Refusal := shlWith (.shlReg rd ra) rd (s.reg ra) (s.reg .r5) s

/-- SHL, immediate form (R166). -/
def execShlImm (rd ra : Reg) (ext : Word) (s : State) : Host.Outcome State Fault Refusal := shlWith (.shlImm rd ra ext) rd (s.reg ra) ext s

/-- SHR, register form: B is R6 (R167, R121). -/
def execShrReg (rd ra : Reg) (s : State) : Host.Outcome State Fault Refusal := shrWith (.shrReg rd ra) rd (s.reg ra) (s.reg .r6) s

/-- SHR, immediate form (R167). -/
def execShrImm (rd ra : Reg) (ext : Word) (s : State) : Host.Outcome State Fault Refusal := shrWith (.shrImm rd ra ext) rd (s.reg ra) ext s

/-- CMP, register form: B is R7 (R168, R121). -/
def execCmpReg (ra : Reg) (s : State) : Host.Outcome State Fault Refusal := cmpWith (.cmpReg ra) (s.reg ra) (s.reg .r7) s

/-- CMP, immediate form (R168). -/
def execCmpImm (ra : Reg) (ext : Word) (s : State) : Host.Outcome State Fault Refusal := cmpWith (.cmpImm ra ext) (s.reg ra) ext s

end Sys2Proof.Machine
end

