-- ==== Sys2Proof/Machine/Atomic.lean ====
section
/-! DEFINITION. The atomic MMIO bit operations (47_atomic_mmio.md R240 to R243). -/

namespace Sys2Proof.Machine

/-- `1 << b` for the bit index `b = R[RD][3:0]` (R240). -/
def bitMask (index : Word) : Word := 1#16 <<< shiftCount index

/-- A read and a write of one MMIO word as one operation (R241, R74): the checks come before the read. -/
def modifyWord (a : Word) (f : Word → Word) (s : State) : Except FaultKind State :=
  match mmioRead a s with
  | .error k => .error k
  | .ok (v, t) => mmioWrite a (f v) t

/-- BSET (R241). -/
def execBset (rd : Reg) (ext : Word) (s : State) : Host.Outcome State Fault Refusal :=
  match modifyWord ext (fun v => v ||| bitMask (s.reg rd)) s with
  | .error k => finish (.bset rd ext) s (.error k)
  | .ok t => finish (.bset rd ext) s (.ok (advance (.bset rd ext) t))

/-- BCLR (R242). -/
def execBclr (rd : Reg) (ext : Word) (s : State) : Host.Outcome State Fault Refusal :=
  match modifyWord ext (fun v => v &&& ~~~(bitMask (s.reg rd))) s with
  | .error k => finish (.bclr rd ext) s (.error k)
  | .ok t => finish (.bclr rd ext) s (.ok (advance (.bclr rd ext) t))

/-- BTEST (R243): Z alone is written, 1 when the bit is 0. -/
def execBtest (rd : Reg) (ext : Word) (s : State) : Host.Outcome State Fault Refusal :=
  match mmioRead ext s with
  | .error k => finish (.btest rd ext) s (.error k)
  | .ok (v, t) =>
    finish (.btest rd ext) s
      (.ok (advance (.btest rd ext) (t.setFlags (testFlags (v.getLsbD (shiftCount (s.reg rd))) s.flags))))

end Sys2Proof.Machine
end

