-- ==== Sys2Proof/Machine/Branch.lean ====
section
/-! DEFINITION. Branch and jump (44_branch_jump.md R200 to R209). -/

namespace Sys2Proof.Machine

/-- BEQ (R200, R202). -/
def execBeq (ext : Word) (s : State) : Host.Outcome State Fault Refusal := branchIf (.beq ext) (condEq s.flags) ext s

/-- BNE (R200, R202). -/
def execBne (ext : Word) (s : State) : Host.Outcome State Fault Refusal := branchIf (.bne ext) (condNe s.flags) ext s

/-- BLT (R200, R202). -/
def execBlt (ext : Word) (s : State) : Host.Outcome State Fault Refusal := branchIf (.blt ext) (condLt s.flags) ext s

/-- BLE (R200, R202). -/
def execBle (ext : Word) (s : State) : Host.Outcome State Fault Refusal := branchIf (.ble ext) (condLe s.flags) ext s

/-- BGT (R200, R202). -/
def execBgt (ext : Word) (s : State) : Host.Outcome State Fault Refusal := branchIf (.bgt ext) (condGt s.flags) ext s

/-- BGE (R200, R202). -/
def execBge (ext : Word) (s : State) : Host.Outcome State Fault Refusal := branchIf (.bge ext) (condGe s.flags) ext s

/-- JMP (R203). -/
def execJmp (ext : Word) (s : State) : Host.Outcome State Fault Refusal :=
  finish (.jmp ext) s (.ok (s.setPc (relTarget (.jmp ext) ext s)))

/-- CALL (R204). -/
def execCall (ext : Word) (s : State) : Host.Outcome State Fault Refusal :=
  match pushWord (s.pcNext (.call ext)) s with
  | .error k => finish (.call ext) s (.error k)
  | .ok t => finish (.call ext) s (.ok (t.setPc (relTarget (.call ext) ext s)))

/-- RET (R209). -/
def execRet (s : State) : Host.Outcome State Fault Refusal :=
  match popWord s with
  | .error k => finish .ret s (.error k)
  | .ok (v, t) => finish .ret s (.ok (t.setPc v))

end Sys2Proof.Machine
end

