-- ==== Sys2Proof/Machine/Control.lean ====
section
/-! DEFINITION. The control instructions (40_control.md R140 to R144). -/

namespace Sys2Proof.Machine

/-- NOP (R140). -/
def execNop (s : State) : Host.Outcome State Fault Refusal := finish .nop s (.ok (advance .nop s))

/-- SYNC (R141): every earlier write is already visible (20_memory.md R80, R81). -/
def execSync (s : State) : Host.Outcome State Fault Refusal := finish .sync s (.ok (advance .sync s))

/-- RUNSTATE after HALT's cycle is charged (R142): halted for the rest of the tick, unless that cycle raised the budget
fault, which then wins. -/
def haltUnlessBudget (t : State) : State := if budget ≤ t.tick.toNat then t else t.setRunState .haltTick

/-- The state HALT ends in (R142): it retires, and then halts. -/
def haltState (s : State) : State := haltUnlessBudget (retire (Instr.baseCost .halt) (advance .halt s))

/-- HALT (R142). -/
def execHalt (s : State) : Host.Outcome State Fault Refusal := .next (haltState s)

/-- TRAP (R143): the trap id is `R[RD][7:0]`. -/
def execTrap (rd : Reg) (s : State) : Host.Outcome State Fault Refusal := .next (raiseTrap (.trap rd) (loByte (s.reg rd)) s)

/-- SWI (R144): the trap id is `ext16[7:0]`; a non-zero high byte is FK_ILLEGAL. -/
def execSwi (ext : Word) (s : State) : Host.Outcome State Fault Refusal :=
  if swiLegal ext then .next (raiseTrap (.swi ext) (loByte ext) s) else illegalExt (.swi ext) s

end Sys2Proof.Machine
end

