-- ==== Sys2Proof/Machine/DataMove.lean ====
section
/-! DEFINITION. Data movement (41_data_movement.md R150 to R152). -/

namespace Sys2Proof.Machine

/-- MOV, register form (R150). -/
def execMovReg (rd ra : Reg) (s : State) : Host.Outcome State Fault Refusal := moveWith (.movReg rd ra) rd (s.reg ra) s

/-- MOV, immediate form (R150). -/
def execMovImm (rd : Reg) (ext : Word) (s : State) : Host.Outcome State Fault Refusal := moveWith (.movImm rd ext) rd ext s

/-- LOAD [Ra] (R151). -/
def execLoadInd (rd ra : Reg) (s : State) : Host.Outcome State Fault Refusal := loadFrom (.loadInd rd ra) rd (eaInd ra s) s

/-- LOAD [Ra + disp8] (R151, R105). -/
def execLoadDisp (rd ra : Reg) (ext : Word) (s : State) : Host.Outcome State Fault Refusal :=
  if dispLegal ext then loadFrom (.loadDisp rd ra ext) rd (eaDisp ra ext s) s else illegalExt (.loadDisp rd ra ext) s

/-- LOAD [abs] (R151). -/
def execLoadAbs (rd : Reg) (ext : Word) (s : State) : Host.Outcome State Fault Refusal := loadFrom (.loadAbs rd ext) rd ext s

/-- LOAD [PC_next + disp16] (R151). -/
def execLoadPcrel (rd : Reg) (ext : Word) (s : State) : Host.Outcome State Fault Refusal :=
  loadFrom (.loadPcrel rd ext) rd (relTarget (.loadPcrel rd ext) ext s) s

/-- STORE [Ra] (R152). -/
def execStoreInd (rd ra : Reg) (s : State) : Host.Outcome State Fault Refusal := storeTo (.storeInd rd ra) rd (eaInd ra s) s

/-- STORE [Ra + disp8] (R152, R105). -/
def execStoreDisp (rd ra : Reg) (ext : Word) (s : State) : Host.Outcome State Fault Refusal :=
  if dispLegal ext then storeTo (.storeDisp rd ra ext) rd (eaDisp ra ext s) s else illegalExt (.storeDisp rd ra ext) s

/-- STORE [abs] (R152). -/
def execStoreAbs (rd : Reg) (ext : Word) (s : State) : Host.Outcome State Fault Refusal := storeTo (.storeAbs rd ext) rd ext s

/-- STORE [PC_next + disp16] (R152). -/
def execStorePcrel (rd : Reg) (ext : Word) (s : State) : Host.Outcome State Fault Refusal :=
  storeTo (.storePcrel rd ext) rd (relTarget (.storePcrel rd ext) ext s) s

end Sys2Proof.Machine
end

