-- ==== Sys2Proof/Machine/Event.lean ====
section
/-! DEFINITION. The event instructions (48_event.md R250 to R252). -/

namespace Sys2Proof.Machine

/-- EWAIT (R250): with an empty queue it stalls, and a stalled EWAIT changes nothing at all and does not retire. -/
def execEwait (s : State) : Host.Outcome State Fault Refusal :=
  match s.evq with
  | [] => .next s
  | _ :: _ => finish .ewait s (.ok (advance .ewait s))

/-- EGET (R251). -/
def execEget (rd : Reg) (s : State) : Host.Outcome State Fault Refusal :=
  match s.evq with
  | [] => finish (.eget rd) s (.ok (advance (.eget rd) (s.setReg rd 0#16)))
  | id :: rest => finish (.eget rd) s (.ok (advance (.eget rd) ((s.setEvq rest).setReg rd (zext8 id))))

/-- ERET (R252). -/
def execEret (s : State) : Host.Outcome State Fault Refusal := finish .eret s (leaveHandler s)

end Sys2Proof.Machine
end

