-- ==== Sys2Proof/Machine/Helpers.lean ====
section
/-! DEFINITION. The math helpers (43_math_helpers.md R180 to R188). -/

namespace Sys2Proof.Machine

/-- MUL, register form: B is R0 (R181, R121). -/
def execMulReg (rd ra : Reg) (s : State) : Host.Outcome State Fault Refusal := plainWith (.mulReg rd ra) rd (mulValue (s.reg ra) (s.reg .r0)) s

/-- MUL, immediate form (R181). -/
def execMulImm (rd ra : Reg) (ext : Word) (s : State) : Host.Outcome State Fault Refusal := plainWith (.mulImm rd ra ext) rd (mulValue (s.reg ra) ext) s

/-- MULH, register form: B is R1 (R182, R121). -/
def execMulhReg (rd ra : Reg) (s : State) : Host.Outcome State Fault Refusal := plainWith (.mulhReg rd ra) rd (mulhValue (s.reg ra) (s.reg .r1)) s

/-- MULH, immediate form (R182). -/
def execMulhImm (rd ra : Reg) (ext : Word) (s : State) : Host.Outcome State Fault Refusal := plainWith (.mulhImm rd ra ext) rd (mulhValue (s.reg ra) ext) s

/-- DIV, register form: B is R2 (R183, R121). -/
def execDivReg (rd ra : Reg) (s : State) : Host.Outcome State Fault Refusal := plainWith (.divReg rd ra) rd (divValue (s.reg ra) (s.reg .r2)) s

/-- DIV, immediate form (R183). -/
def execDivImm (rd ra : Reg) (ext : Word) (s : State) : Host.Outcome State Fault Refusal := plainWith (.divImm rd ra ext) rd (divValue (s.reg ra) ext) s

/-- MOD, register form: B is R3 (R184, R121). -/
def execModReg (rd ra : Reg) (s : State) : Host.Outcome State Fault Refusal := plainWith (.modReg rd ra) rd (modValue (s.reg ra) (s.reg .r3)) s

/-- MOD, immediate form (R184). -/
def execModImm (rd ra : Reg) (ext : Word) (s : State) : Host.Outcome State Fault Refusal := plainWith (.modImm rd ra ext) rd (modValue (s.reg ra) ext) s

/-- QADD, register form: B is R4 (R185, R121). -/
def execQaddReg (rd ra : Reg) (s : State) : Host.Outcome State Fault Refusal := moveWith (.qaddReg rd ra) rd (qaddValue (s.reg ra) (s.reg .r4)) s

/-- QADD, immediate form (R185). -/
def execQaddImm (rd ra : Reg) (ext : Word) (s : State) : Host.Outcome State Fault Refusal := moveWith (.qaddImm rd ra ext) rd (qaddValue (s.reg ra) ext) s

/-- QSUB, register form: B is R5 (R186, R121). -/
def execQsubReg (rd ra : Reg) (s : State) : Host.Outcome State Fault Refusal := moveWith (.qsubReg rd ra) rd (qsubValue (s.reg ra) (s.reg .r5)) s

/-- QSUB, immediate form (R186). -/
def execQsubImm (rd ra : Reg) (ext : Word) (s : State) : Host.Outcome State Fault Refusal := moveWith (.qsubImm rd ra ext) rd (qsubValue (s.reg ra) ext) s

/-- SCV (R187): non-zero bits 14..4 of the control word are FK_ILLEGAL. -/
def execScv (rd ra : Reg) (ext : Word) (s : State) : Host.Outcome State Fault Refusal :=
  if scvLegal ext then moveWith (.scv rd ra ext) rd (scvValue (s.reg ra) ext) s else illegalExt (.scv rd ra ext) s

end Sys2Proof.Machine
end

