-- ==== Sys2Proof/Machine/Mmio.lean ====
section
/-! DEFINITION. IN and OUT (46_mmio.md R230 to R232). -/

namespace Sys2Proof.Machine

/-- IN (R231). -/
def execInp (rd : Reg) (ext : Word) (s : State) : Host.Outcome State Fault Refusal :=
  match mmioRead ext s with
  | .error k => finish (.inp rd ext) s (.error k)
  | .ok (v, t) =>
    finish (.inp rd ext) s (.ok (((t.setReg rd v).setFlags (moveFlags v s.flags)).setPc (s.pcNext (.inp rd ext))))

/-- OUT (R232). -/
def execOut (rd : Reg) (ext : Word) (s : State) : Host.Outcome State Fault Refusal :=
  match mmioWrite ext (s.reg rd) s with
  | .error k => finish (.out rd ext) s (.error k)
  | .ok t => finish (.out rd ext) s (.ok (advance (.out rd ext) t))

end Sys2Proof.Machine
end

