-- ==== Sys2Proof/Machine/Stack.lean ====
section
/-! DEFINITION. PUSH and POP (45_stack.md R221, R222). -/

namespace Sys2Proof.Machine

/-- PUSH (R221). -/
def execPush (rd : Reg) (s : State) : Host.Outcome State Fault Refusal :=
  match pushWord (s.reg rd) s with
  | .error k => finish (.push rd) s (.error k)
  | .ok t => finish (.push rd) s (.ok (advance (.push rd) t))

/-- POP (R222): FLAGS are left alone. -/
def execPop (rd : Reg) (s : State) : Host.Outcome State Fault Refusal :=
  match popWord s with
  | .error k => finish (.pop rd) s (.error k)
  | .ok (v, t) => finish (.pop rd) s (.ok (advance (.pop rd) (t.setReg rd v)))

end Sys2Proof.Machine
end

