-- ==== Sys2Proof/Machine/Dispatch.lean ====
section
/-! DEFINITION. The dispatch from an instruction to its meaning, one arm per constructor. -/

namespace Sys2Proof.Machine

-- Each arm is the whole of 60_exceptions.md R262 step 4 for one decoded instruction.
def exec (i : Instr) (s : State) : Host.Outcome State Fault Refusal :=
  match i with
  | .nop => Sys2Proof.Machine.execNop s
  | .sync => Sys2Proof.Machine.execSync s
  | .halt => Sys2Proof.Machine.execHalt s
  | .trap rd => Sys2Proof.Machine.execTrap rd s
  | .swi ext => Sys2Proof.Machine.execSwi ext s
  | .movReg rd ra => Sys2Proof.Machine.execMovReg rd ra s
  | .movImm rd ext => Sys2Proof.Machine.execMovImm rd ext s
  | .loadInd rd ra => Sys2Proof.Machine.execLoadInd rd ra s
  | .loadDisp rd ra ext => Sys2Proof.Machine.execLoadDisp rd ra ext s
  | .loadAbs rd ext => Sys2Proof.Machine.execLoadAbs rd ext s
  | .loadPcrel rd ext => Sys2Proof.Machine.execLoadPcrel rd ext s
  | .storeInd rd ra => Sys2Proof.Machine.execStoreInd rd ra s
  | .storeDisp rd ra ext => Sys2Proof.Machine.execStoreDisp rd ra ext s
  | .storeAbs rd ext => Sys2Proof.Machine.execStoreAbs rd ext s
  | .storePcrel rd ext => Sys2Proof.Machine.execStorePcrel rd ext s
  | .addReg rd ra => Sys2Proof.Machine.execAddReg rd ra s
  | .addImm rd ra ext => Sys2Proof.Machine.execAddImm rd ra ext s
  | .subReg rd ra => Sys2Proof.Machine.execSubReg rd ra s
  | .subImm rd ra ext => Sys2Proof.Machine.execSubImm rd ra ext s
  | .andReg rd ra => Sys2Proof.Machine.execAndReg rd ra s
  | .andImm rd ra ext => Sys2Proof.Machine.execAndImm rd ra ext s
  | .orReg rd ra => Sys2Proof.Machine.execOrReg rd ra s
  | .orImm rd ra ext => Sys2Proof.Machine.execOrImm rd ra ext s
  | .xorReg rd ra => Sys2Proof.Machine.execXorReg rd ra s
  | .xorImm rd ra ext => Sys2Proof.Machine.execXorImm rd ra ext s
  | .shlReg rd ra => Sys2Proof.Machine.execShlReg rd ra s
  | .shlImm rd ra ext => Sys2Proof.Machine.execShlImm rd ra ext s
  | .shrReg rd ra => Sys2Proof.Machine.execShrReg rd ra s
  | .shrImm rd ra ext => Sys2Proof.Machine.execShrImm rd ra ext s
  | .cmpReg ra => Sys2Proof.Machine.execCmpReg ra s
  | .cmpImm ra ext => Sys2Proof.Machine.execCmpImm ra ext s
  | .mulReg rd ra => Sys2Proof.Machine.execMulReg rd ra s
  | .mulImm rd ra ext => Sys2Proof.Machine.execMulImm rd ra ext s
  | .mulhReg rd ra => Sys2Proof.Machine.execMulhReg rd ra s
  | .mulhImm rd ra ext => Sys2Proof.Machine.execMulhImm rd ra ext s
  | .divReg rd ra => Sys2Proof.Machine.execDivReg rd ra s
  | .divImm rd ra ext => Sys2Proof.Machine.execDivImm rd ra ext s
  | .modReg rd ra => Sys2Proof.Machine.execModReg rd ra s
  | .modImm rd ra ext => Sys2Proof.Machine.execModImm rd ra ext s
  | .qaddReg rd ra => Sys2Proof.Machine.execQaddReg rd ra s
  | .qaddImm rd ra ext => Sys2Proof.Machine.execQaddImm rd ra ext s
  | .qsubReg rd ra => Sys2Proof.Machine.execQsubReg rd ra s
  | .qsubImm rd ra ext => Sys2Proof.Machine.execQsubImm rd ra ext s
  | .scv rd ra ext => Sys2Proof.Machine.execScv rd ra ext s
  | .beq ext => Sys2Proof.Machine.execBeq ext s
  | .bne ext => Sys2Proof.Machine.execBne ext s
  | .blt ext => Sys2Proof.Machine.execBlt ext s
  | .ble ext => Sys2Proof.Machine.execBle ext s
  | .bgt ext => Sys2Proof.Machine.execBgt ext s
  | .bge ext => Sys2Proof.Machine.execBge ext s
  | .jmp ext => Sys2Proof.Machine.execJmp ext s
  | .call ext => Sys2Proof.Machine.execCall ext s
  | .ret => Sys2Proof.Machine.execRet s
  | .push rd => Sys2Proof.Machine.execPush rd s
  | .pop rd => Sys2Proof.Machine.execPop rd s
  | .inp rd ext => Sys2Proof.Machine.execInp rd ext s
  | .out rd ext => Sys2Proof.Machine.execOut rd ext s
  | .bset rd ext => Sys2Proof.Machine.execBset rd ext s
  | .bclr rd ext => Sys2Proof.Machine.execBclr rd ext s
  | .btest rd ext => Sys2Proof.Machine.execBtest rd ext s
  | .ewait => Sys2Proof.Machine.execEwait s
  | .eget rd => Sys2Proof.Machine.execEget rd s
  | .eret => Sys2Proof.Machine.execEret s

end Sys2Proof.Machine
end

