-- ==== Sys2Proof/Decode.lean ====
section
/-! DEFINITION. The decoder, total on any words and bytes, and the encoder (30_encoding.md R100 to R122). The decoder
reads the fields of R101 by the opcode map (R107) and the binding table (R120); the match and mask table of R122 stands
at the end as `opcodeRows`, a second description of the same set of primary words. -/

namespace Sys2Proof

/-- Why the decoder rejects (R110, R111, R114). -/
inductive DecodeError where
  /-- The primary word matches no row of R122. -/
  | illegalPrimary
  /-- The primary word is legal and its extension word breaks R114; `base` is the form's cost (R274). -/
  | illegalExtension (base : Nat)
  /-- The bytes end before the instruction does. -/
  | truncated
deriving DecidableEq, Repr

/-- The register a 3-bit field selects (R21). -/
def Reg.ofBits (b : BitVec 3) : Reg :=
  match b.toNat with
  | 0 => .r0
  | 1 => .r1
  | 2 => .r2
  | 3 => .r3
  | 4 => .r4
  | 5 => .r5
  | 6 => .r6
  | _ => .r7

/-- The 3-bit field that selects a register (R21). -/
def Reg.bits : Reg → BitVec 3
  | .r0 => 0#3
  | .r1 => 1#3
  | .r2 => 2#3
  | .r3 => 3#3
  | .r4 => 4#3
  | .r5 => 5#3
  | .r6 => 6#3
  | .r7 => 7#3

/-- The fields of the primary word (R101). -/
def opField (w : Word) : BitVec 4 := w.extractLsb' 12 4
def rdField (w : Word) : BitVec 3 := w.extractLsb' 9 3
def raField (w : Word) : BitVec 3 := w.extractLsb' 6 3
def subField (w : Word) : BitVec 3 := w.extractLsb' 3 3
def amField (w : Word) : BitVec 3 := w.extractLsb' 0 3

/-- The form `i`, provided that its unused register fields are 000 (R120). -/
def onlyIf (unusedAreZero : Bool) (i : Instr) : Option Instr := if unusedAreZero then some i else none

/-- OP 0x0 (R107): `rz`, `az` say that the fields RD, RA are 000. -/
def decodeControl (rz az : Bool) (rd : Reg) (sub am : Nat) (ext : Word) : Option Instr :=
  match sub, am with
  | 0, 0 => onlyIf (rz && az) .nop
  | 1, 0 => onlyIf (rz && az) .sync
  | 2, 0 => onlyIf (rz && az) .halt
  | 3, 0 => onlyIf az (.trap rd)
  | 4, 4 => onlyIf (rz && az) (.swi ext)
  | _, _ => none

/-- OP 0x1 (R120, R113). -/
def decodeMov (az : Bool) (rd ra : Reg) (sub am : Nat) (ext : Word) : Option Instr :=
  match sub, am with
  | 0, 0 => some (.movReg rd ra)
  | 0, 4 => onlyIf az (.movImm rd ext)
  | _, _ => none

/-- OP 0x2 (R120, R113). -/
def decodeLoad (az : Bool) (rd ra : Reg) (sub am : Nat) (ext : Word) : Option Instr :=
  match sub, am with
  | 0, 1 => some (.loadInd rd ra)
  | 0, 2 => some (.loadDisp rd ra ext)
  | 0, 3 => onlyIf az (.loadAbs rd ext)
  | 0, 5 => onlyIf az (.loadPcrel rd ext)
  | _, _ => none

/-- OP 0x3 (R120, R113). -/
def decodeStore (az : Bool) (rd ra : Reg) (sub am : Nat) (ext : Word) : Option Instr :=
  match sub, am with
  | 0, 1 => some (.storeInd rd ra)
  | 0, 2 => some (.storeDisp rd ra ext)
  | 0, 3 => onlyIf az (.storeAbs rd ext)
  | 0, 5 => onlyIf az (.storePcrel rd ext)
  | _, _ => none

/-- OP 0x4 (R160, R168). -/
def decodeAlu (rz : Bool) (rd ra : Reg) (sub am : Nat) (ext : Word) : Option Instr :=
  match sub, am with
  | 0, 0 => some (.addReg rd ra)
  | 0, 4 => some (.addImm rd ra ext)
  | 1, 0 => some (.subReg rd ra)
  | 1, 4 => some (.subImm rd ra ext)
  | 2, 0 => some (.andReg rd ra)
  | 2, 4 => some (.andImm rd ra ext)
  | 3, 0 => some (.orReg rd ra)
  | 3, 4 => some (.orImm rd ra ext)
  | 4, 0 => some (.xorReg rd ra)
  | 4, 4 => some (.xorImm rd ra ext)
  | 5, 0 => some (.shlReg rd ra)
  | 5, 4 => some (.shlImm rd ra ext)
  | 6, 0 => some (.shrReg rd ra)
  | 6, 4 => some (.shrImm rd ra ext)
  | 7, 0 => onlyIf rz (.cmpReg ra)
  | 7, 4 => onlyIf rz (.cmpImm ra ext)
  | _, _ => none

/-- OP 0x5 (R180, R187): SUB 7 is unassigned and SCV has no register form. -/
def decodeHelper (rd ra : Reg) (sub am : Nat) (ext : Word) : Option Instr :=
  match sub, am with
  | 0, 0 => some (.mulReg rd ra)
  | 0, 4 => some (.mulImm rd ra ext)
  | 1, 0 => some (.mulhReg rd ra)
  | 1, 4 => some (.mulhImm rd ra ext)
  | 2, 0 => some (.divReg rd ra)
  | 2, 4 => some (.divImm rd ra ext)
  | 3, 0 => some (.modReg rd ra)
  | 3, 4 => some (.modImm rd ra ext)
  | 4, 0 => some (.qaddReg rd ra)
  | 4, 4 => some (.qaddImm rd ra ext)
  | 5, 0 => some (.qsubReg rd ra)
  | 5, 4 => some (.qsubImm rd ra ext)
  | 6, 4 => some (.scv rd ra ext)
  | _, _ => none

/-- OP 0x6 (R202 to R209); CALL and RET share SUB 7 and differ in AM (R109). -/
def decodeBranch (rz az : Bool) (sub am : Nat) (ext : Word) : Option Instr :=
  match sub, am with
  | 0, 5 => onlyIf (rz && az) (.beq ext)
  | 1, 5 => onlyIf (rz && az) (.bne ext)
  | 2, 5 => onlyIf (rz && az) (.blt ext)
  | 3, 5 => onlyIf (rz && az) (.ble ext)
  | 4, 5 => onlyIf (rz && az) (.bgt ext)
  | 5, 5 => onlyIf (rz && az) (.bge ext)
  | 6, 5 => onlyIf (rz && az) (.jmp ext)
  | 7, 5 => onlyIf (rz && az) (.call ext)
  | 7, 0 => onlyIf (rz && az) .ret
  | _, _ => none

/-- OP 0x7 (R221, R222). -/
def decodeStack (az : Bool) (rd : Reg) (sub am : Nat) : Option Instr :=
  match sub, am with
  | 0, 0 => onlyIf az (.push rd)
  | 1, 0 => onlyIf az (.pop rd)
  | _, _ => none

/-- OP 0x8 (R230). -/
def decodeMmio (az : Bool) (rd : Reg) (sub am : Nat) (ext : Word) : Option Instr :=
  match sub, am with
  | 0, 3 => onlyIf az (.inp rd ext)
  | 1, 3 => onlyIf az (.out rd ext)
  | _, _ => none

/-- OP 0x9 (R240). -/
def decodeAtomic (az : Bool) (rd : Reg) (sub am : Nat) (ext : Word) : Option Instr :=
  match sub, am with
  | 0, 3 => onlyIf az (.bset rd ext)
  | 1, 3 => onlyIf az (.bclr rd ext)
  | 2, 3 => onlyIf az (.btest rd ext)
  | _, _ => none

/-- OP 0xA (R250 to R252). -/
def decodeEvent (rz az : Bool) (rd : Reg) (sub am : Nat) : Option Instr :=
  match sub, am with
  | 0, 0 => onlyIf (rz && az) .ewait
  | 1, 0 => onlyIf az (.eget rd)
  | 2, 0 => onlyIf (rz && az) .eret
  | _, _ => none

/-- The form a primary word is, with `ext` as its extension word where it has one; `none` when the word matches no row
(R111, R112). The extension word is not checked here (R110 step 2 looks at the primary word alone). -/
def decodeForm (w ext : Word) : Option Instr :=
  let rz := rdField w == 0#3
  let az := raField w == 0#3
  let rd := Reg.ofBits (rdField w)
  let ra := Reg.ofBits (raField w)
  let sub := (subField w).toNat
  let am := (amField w).toNat
  match (opField w).toNat with
  | 0 => decodeControl rz az rd sub am ext
  | 1 => decodeMov az rd ra sub am ext
  | 2 => decodeLoad az rd ra sub am ext
  | 3 => decodeStore az rd ra sub am ext
  | 4 => decodeAlu rz rd ra sub am ext
  | 5 => decodeHelper rd ra sub am ext
  | 6 => decodeBranch rz az sub am ext
  | 7 => decodeStack az rd sub am
  | 8 => decodeMmio az rd sub am ext
  | 9 => decodeAtomic az rd sub am ext
  | 10 => decodeEvent rz az rd sub am
  | _ => none

/-- The instruction of a primary word and its extension word, or the reason for rejecting it (R110 steps 2 and 4). -/
def decodeWords (w ext : Word) : Except DecodeError Instr :=
  match decodeForm w ext with
  | none => .error .illegalPrimary
  | some i => if i.wellFormed then .ok i else .error (.illegalExtension i.baseCost)

/-- The decoder over bytes, each word big-endian (R64, R101): the instruction and the bytes after it. -/
def decodeBytes : List Byte → Except DecodeError (Instr × List Byte)
  | b0 :: b1 :: rest =>
    let w := Machine.wordOf b0 b1
    match decodeForm w 0#16 with
    | none => .error .illegalPrimary
    | some form =>
      match form.extWords with
      | 0 =>
        match decodeWords w 0#16 with
        | .ok i => .ok (i, rest)
        | .error e => .error e
      | _ + 1 =>
        match rest with
        | b2 :: b3 :: rest' =>
          match decodeWords w (Machine.wordOf b2 b3) with
          | .ok i => .ok (i, rest')
          | .error e => .error e
        | _ => .error .truncated
  | _ => .error .truncated

/-- The bytes of a word as memory holds them (R64). -/
def wordBytes (v : Word) : List Byte := [Machine.hiByte v, Machine.loByte v]

/-- The instruction the decoder reads from an instruction whose bits are `w`: bits 15..0 the primary word, bits 31..16
the extension word, every bit from `nbits` up read as 0. -/
def decodeTableWord (nbits w : Nat) : Option Instr :=
  let v := w % 2 ^ nbits
  match decodeBytes (wordBytes (BitVec.ofNat 16 v) ++ wordBytes (BitVec.ofNat 16 (v / 65536))) with
  | .ok (i, _) => some i
  | .error _ => none

/-! ## The encoder -/

/-- `word = OP << 12 | RD << 9 | RA << 6 | SUB << 3 | AM` (R101). -/
def packWord (op : BitVec 4) (rd ra : Reg) (sub am : BitVec 3) : Word :=
  op ++ rd.bits ++ ra.bits ++ sub ++ am

/-- The words of an instruction (R107, R120): an unused register field is 000. -/
def encode : Instr → List Word
  | .nop => [packWord 0x0#4 .r0 .r0 0#3 0#3]
  | .sync => [packWord 0x0#4 .r0 .r0 1#3 0#3]
  | .halt => [packWord 0x0#4 .r0 .r0 2#3 0#3]
  | .trap rd => [packWord 0x0#4 rd .r0 3#3 0#3]
  | .swi ext => [packWord 0x0#4 .r0 .r0 4#3 4#3, ext]
  | .movReg rd ra => [packWord 0x1#4 rd ra 0#3 0#3]
  | .movImm rd ext => [packWord 0x1#4 rd .r0 0#3 4#3, ext]
  | .loadInd rd ra => [packWord 0x2#4 rd ra 0#3 1#3]
  | .loadDisp rd ra ext => [packWord 0x2#4 rd ra 0#3 2#3, ext]
  | .loadAbs rd ext => [packWord 0x2#4 rd .r0 0#3 3#3, ext]
  | .loadPcrel rd ext => [packWord 0x2#4 rd .r0 0#3 5#3, ext]
  | .storeInd rd ra => [packWord 0x3#4 rd ra 0#3 1#3]
  | .storeDisp rd ra ext => [packWord 0x3#4 rd ra 0#3 2#3, ext]
  | .storeAbs rd ext => [packWord 0x3#4 rd .r0 0#3 3#3, ext]
  | .storePcrel rd ext => [packWord 0x3#4 rd .r0 0#3 5#3, ext]
  | .addReg rd ra => [packWord 0x4#4 rd ra 0#3 0#3]
  | .addImm rd ra ext => [packWord 0x4#4 rd ra 0#3 4#3, ext]
  | .subReg rd ra => [packWord 0x4#4 rd ra 1#3 0#3]
  | .subImm rd ra ext => [packWord 0x4#4 rd ra 1#3 4#3, ext]
  | .andReg rd ra => [packWord 0x4#4 rd ra 2#3 0#3]
  | .andImm rd ra ext => [packWord 0x4#4 rd ra 2#3 4#3, ext]
  | .orReg rd ra => [packWord 0x4#4 rd ra 3#3 0#3]
  | .orImm rd ra ext => [packWord 0x4#4 rd ra 3#3 4#3, ext]
  | .xorReg rd ra => [packWord 0x4#4 rd ra 4#3 0#3]
  | .xorImm rd ra ext => [packWord 0x4#4 rd ra 4#3 4#3, ext]
  | .shlReg rd ra => [packWord 0x4#4 rd ra 5#3 0#3]
  | .shlImm rd ra ext => [packWord 0x4#4 rd ra 5#3 4#3, ext]
  | .shrReg rd ra => [packWord 0x4#4 rd ra 6#3 0#3]
  | .shrImm rd ra ext => [packWord 0x4#4 rd ra 6#3 4#3, ext]
  | .cmpReg ra => [packWord 0x4#4 .r0 ra 7#3 0#3]
  | .cmpImm ra ext => [packWord 0x4#4 .r0 ra 7#3 4#3, ext]
  | .mulReg rd ra => [packWord 0x5#4 rd ra 0#3 0#3]
  | .mulImm rd ra ext => [packWord 0x5#4 rd ra 0#3 4#3, ext]
  | .mulhReg rd ra => [packWord 0x5#4 rd ra 1#3 0#3]
  | .mulhImm rd ra ext => [packWord 0x5#4 rd ra 1#3 4#3, ext]
  | .divReg rd ra => [packWord 0x5#4 rd ra 2#3 0#3]
  | .divImm rd ra ext => [packWord 0x5#4 rd ra 2#3 4#3, ext]
  | .modReg rd ra => [packWord 0x5#4 rd ra 3#3 0#3]
  | .modImm rd ra ext => [packWord 0x5#4 rd ra 3#3 4#3, ext]
  | .qaddReg rd ra => [packWord 0x5#4 rd ra 4#3 0#3]
  | .qaddImm rd ra ext => [packWord 0x5#4 rd ra 4#3 4#3, ext]
  | .qsubReg rd ra => [packWord 0x5#4 rd ra 5#3 0#3]
  | .qsubImm rd ra ext => [packWord 0x5#4 rd ra 5#3 4#3, ext]
  | .scv rd ra ext => [packWord 0x5#4 rd ra 6#3 4#3, ext]
  | .beq ext => [packWord 0x6#4 .r0 .r0 0#3 5#3, ext]
  | .bne ext => [packWord 0x6#4 .r0 .r0 1#3 5#3, ext]
  | .blt ext => [packWord 0x6#4 .r0 .r0 2#3 5#3, ext]
  | .ble ext => [packWord 0x6#4 .r0 .r0 3#3 5#3, ext]
  | .bgt ext => [packWord 0x6#4 .r0 .r0 4#3 5#3, ext]
  | .bge ext => [packWord 0x6#4 .r0 .r0 5#3 5#3, ext]
  | .jmp ext => [packWord 0x6#4 .r0 .r0 6#3 5#3, ext]
  | .call ext => [packWord 0x6#4 .r0 .r0 7#3 5#3, ext]
  | .ret => [packWord 0x6#4 .r0 .r0 7#3 0#3]
  | .push rd => [packWord 0x7#4 rd .r0 0#3 0#3]
  | .pop rd => [packWord 0x7#4 rd .r0 1#3 0#3]
  | .inp rd ext => [packWord 0x8#4 rd .r0 0#3 3#3, ext]
  | .out rd ext => [packWord 0x8#4 rd .r0 1#3 3#3, ext]
  | .bset rd ext => [packWord 0x9#4 rd .r0 0#3 3#3, ext]
  | .bclr rd ext => [packWord 0x9#4 rd .r0 1#3 3#3, ext]
  | .btest rd ext => [packWord 0x9#4 rd .r0 2#3 3#3, ext]
  | .ewait => [packWord 0xA#4 .r0 .r0 0#3 0#3]
  | .eget rd => [packWord 0xA#4 rd .r0 1#3 0#3]
  | .eret => [packWord 0xA#4 .r0 .r0 2#3 0#3]

/-- The bytes of an instruction as memory holds them, lowest address first (R64, R101). -/
def encodeBytes (i : Instr) : List Byte := (encode i).flatMap wordBytes

/-! ## The implied register B -/

/-- The register the operation reads as B without naming it (R121, decision D3, log entry 20): the one whose number is the sub-opcode, in the
register form of the ALU and helper classes. No form has a third register field, so the source's three-register `ADD Rd, Ra, Rb`
is an instruction only where Rb is this register (R131). -/
def Instr.implicitB : Instr → Option Reg
  | .nop => none
  | .sync => none
  | .halt => none
  | .trap _ => none
  | .swi _ => none
  | .movReg _ _ => none
  | .movImm _ _ => none
  | .loadInd _ _ => none
  | .loadDisp _ _ _ => none
  | .loadAbs _ _ => none
  | .loadPcrel _ _ => none
  | .storeInd _ _ => none
  | .storeDisp _ _ _ => none
  | .storeAbs _ _ => none
  | .storePcrel _ _ => none
  | .addReg _ _ => some .r0
  | .addImm _ _ _ => none
  | .subReg _ _ => some .r1
  | .subImm _ _ _ => none
  | .andReg _ _ => some .r2
  | .andImm _ _ _ => none
  | .orReg _ _ => some .r3
  | .orImm _ _ _ => none
  | .xorReg _ _ => some .r4
  | .xorImm _ _ _ => none
  | .shlReg _ _ => some .r5
  | .shlImm _ _ _ => none
  | .shrReg _ _ => some .r6
  | .shrImm _ _ _ => none
  | .cmpReg _ => some .r7
  | .cmpImm _ _ => none
  | .mulReg _ _ => some .r0
  | .mulImm _ _ _ => none
  | .mulhReg _ _ => some .r1
  | .mulhImm _ _ _ => none
  | .divReg _ _ => some .r2
  | .divImm _ _ _ => none
  | .modReg _ _ => some .r3
  | .modImm _ _ _ => none
  | .qaddReg _ _ => some .r4
  | .qaddImm _ _ _ => none
  | .qsubReg _ _ => some .r5
  | .qsubImm _ _ _ => none
  | .scv _ _ _ => none
  | .beq _ => none
  | .bne _ => none
  | .blt _ => none
  | .ble _ => none
  | .bgt _ => none
  | .bge _ => none
  | .jmp _ => none
  | .call _ => none
  | .ret => none
  | .push _ => none
  | .pop _ => none
  | .inp _ _ => none
  | .out _ _ => none
  | .bset _ _ => none
  | .bclr _ _ => none
  | .btest _ _ => none
  | .ewait => none
  | .eget _ => none
  | .eret => none

/-! ## The match and mask table (R122) -/

/-- One row of R122: `w` is of the row's form exactly when `w & mask == value`. -/
structure OpcodeRow where
  value : Word
  mask : Word
  words : Nat
deriving DecidableEq, Repr

/-- Rows of OP 0x0 to 0x3. -/
def opcodeRowsMove : List OpcodeRow := [
  ⟨0x0000#16, 0xFFFF#16, 1⟩, ⟨0x0008#16, 0xFFFF#16, 1⟩, ⟨0x0010#16, 0xFFFF#16, 1⟩, ⟨0x0018#16, 0xF1FF#16, 1⟩,
  ⟨0x0024#16, 0xFFFF#16, 2⟩, ⟨0x1000#16, 0xF03F#16, 1⟩, ⟨0x1004#16, 0xF1FF#16, 2⟩, ⟨0x2001#16, 0xF03F#16, 1⟩,
  ⟨0x2002#16, 0xF03F#16, 2⟩, ⟨0x2003#16, 0xF1FF#16, 2⟩, ⟨0x2005#16, 0xF1FF#16, 2⟩, ⟨0x3001#16, 0xF03F#16, 1⟩,
  ⟨0x3002#16, 0xF03F#16, 2⟩, ⟨0x3003#16, 0xF1FF#16, 2⟩, ⟨0x3005#16, 0xF1FF#16, 2⟩]

/-- Rows of OP 0x4. -/
def opcodeRowsAlu : List OpcodeRow := [
  ⟨0x4000#16, 0xF03F#16, 1⟩, ⟨0x4004#16, 0xF03F#16, 2⟩, ⟨0x4008#16, 0xF03F#16, 1⟩, ⟨0x400C#16, 0xF03F#16, 2⟩,
  ⟨0x4010#16, 0xF03F#16, 1⟩, ⟨0x4014#16, 0xF03F#16, 2⟩, ⟨0x4018#16, 0xF03F#16, 1⟩, ⟨0x401C#16, 0xF03F#16, 2⟩,
  ⟨0x4020#16, 0xF03F#16, 1⟩, ⟨0x4024#16, 0xF03F#16, 2⟩, ⟨0x4028#16, 0xF03F#16, 1⟩, ⟨0x402C#16, 0xF03F#16, 2⟩,
  ⟨0x4030#16, 0xF03F#16, 1⟩, ⟨0x4034#16, 0xF03F#16, 2⟩, ⟨0x4038#16, 0xFE3F#16, 1⟩, ⟨0x403C#16, 0xFE3F#16, 2⟩]

/-- Rows of OP 0x5. -/
def opcodeRowsHelper : List OpcodeRow := [
  ⟨0x5000#16, 0xF03F#16, 1⟩, ⟨0x5004#16, 0xF03F#16, 2⟩, ⟨0x5008#16, 0xF03F#16, 1⟩, ⟨0x500C#16, 0xF03F#16, 2⟩,
  ⟨0x5010#16, 0xF03F#16, 1⟩, ⟨0x5014#16, 0xF03F#16, 2⟩, ⟨0x5018#16, 0xF03F#16, 1⟩, ⟨0x501C#16, 0xF03F#16, 2⟩,
  ⟨0x5020#16, 0xF03F#16, 1⟩, ⟨0x5024#16, 0xF03F#16, 2⟩, ⟨0x5028#16, 0xF03F#16, 1⟩, ⟨0x502C#16, 0xF03F#16, 2⟩,
  ⟨0x5034#16, 0xF03F#16, 2⟩]

/-- Rows of OP 0x6 to 0xA. -/
def opcodeRowsRest : List OpcodeRow := [
  ⟨0x6005#16, 0xFFFF#16, 2⟩, ⟨0x600D#16, 0xFFFF#16, 2⟩, ⟨0x6015#16, 0xFFFF#16, 2⟩, ⟨0x601D#16, 0xFFFF#16, 2⟩,
  ⟨0x6025#16, 0xFFFF#16, 2⟩, ⟨0x602D#16, 0xFFFF#16, 2⟩, ⟨0x6035#16, 0xFFFF#16, 2⟩, ⟨0x603D#16, 0xFFFF#16, 2⟩,
  ⟨0x6038#16, 0xFFFF#16, 1⟩, ⟨0x7000#16, 0xF1FF#16, 1⟩, ⟨0x7008#16, 0xF1FF#16, 1⟩, ⟨0x8003#16, 0xF1FF#16, 2⟩,
  ⟨0x800B#16, 0xF1FF#16, 2⟩, ⟨0x9003#16, 0xF1FF#16, 2⟩, ⟨0x900B#16, 0xF1FF#16, 2⟩, ⟨0x9013#16, 0xF1FF#16, 2⟩,
  ⟨0xA000#16, 0xFFFF#16, 1⟩, ⟨0xA008#16, 0xF1FF#16, 1⟩, ⟨0xA010#16, 0xFFFF#16, 1⟩]

/-- The 63 rows of R122, in its order. -/
def opcodeRows : List OpcodeRow := opcodeRowsMove ++ opcodeRowsAlu ++ opcodeRowsHelper ++ opcodeRowsRest

/-- R122: the word is of the row's form. -/
def OpcodeRow.covers (r : OpcodeRow) (w : Word) : Bool := w &&& r.mask == r.value

end Sys2Proof
end

