-- ==== Sys2Proof/Machine/Fetch.lean ====
section
/-! DEFINITION. Fetching and decoding the instruction at PC, in the order of 30_encoding.md R110. -/

namespace Sys2Proof.Machine

/-- Why an instruction could not be started: the fault kind and the base cost of R274. -/
structure FetchFault where
  kind : FaultKind
  base : Nat
deriving DecidableEq, Repr

/-- R110 steps 1 to 4: the primary word, its legality, the extension word where AM calls for one, the extension-word
checks. The base cost is 0 until the primary word is known to be a legal form, and the form's cost from then on (R274). -/
def fetchInstr (s : State) : Except FetchFault Instr :=
  match fetchWord s.pc s with
  | .error k => .error ⟨k, 0⟩
  | .ok w =>
    match decodeForm w 0#16 with
    | none => .error ⟨.illegal, 0⟩
    | some form =>
      match form.extWords with
      | 0 => .ok form
      | _ + 1 =>
        match fetchWord (s.pc + 2#16) s with
        | .error k => .error ⟨k, form.baseCost⟩
        | .ok ext =>
          match decodeWords w ext with
          | .ok i => .ok i
          | .error _ => .error ⟨.illegal, form.baseCost⟩

/-- A word stored at an address of ROM or RAM from outside the core; nothing elsewhere. -/
def placeWord (a v : Word) (m : Memory) : Memory := if a.toNat < 0xE000 then m.writeWord a v else m

/-- The state with an instruction's two words (bits 15..0 and 31..16 of `w`, every bit from `nbits` up 0) stored at PC and
PC + 2, in ROM or RAM: the load from outside that builds a program image (R65, R322; log entry 2). -/
def placeWords (nbits w : Nat) (s : State) : State :=
  let v := w % 2 ^ nbits
  s.setMem (placeWord (s.pc + 2#16) (BitVec.ofNat 16 (v / 65536)) (placeWord s.pc (BitVec.ofNat 16 v) s.mem))

end Sys2Proof.Machine
end

