-- ==== Sys2Proof/Machine/Inputs.lean ====
section
/-! DEFINITION. What the environment does to the core at an instruction boundary: post an event, signal the tick boundary, assert reset (60_exceptions.md R260, R262, R284, R291, R292; 70_reset_and_hazards.md R320). -/

namespace Sys2Proof.Machine

/-- `enqueue(id)` (R284): a fifth event is lost and latches QOVF. -/
def enqueue (id : Byte) (s : State) : State :=
  if s.evq.length < evqDepth then s.setEvq (s.evq ++ [id]) else s.setQovf true

/-- The tick boundary (R292); out of HALT_BUDGET it is the budget recovery of R291. -/
def tickBoundary (s : State) : State :=
  match s.runState with
  | .run => (s.setTick 0#16).setBrecov false
  | .haltTick => ((s.setTick 0#16).setBrecov false).setRunState .run
  | .haltBudget =>
    (((s.setTick 0#16).setPc (s.mem.readWord (vectorAddr .fault))).setBrecov true).setRunState .run
  | .haltPerm => s.setTick 0#16

/-- The reset input (R320): the registers and the hidden state as after reset; ROM kept; RAM and DIAG unspecified, so free
values (R51, R52; log entries 3 and 4); the devices and the environment are outside the core. -/
def resetInput (s : State) : State :=
  { State.reset with
    diag := Config.diagAfterReset s.draws
    mem := s.mem.romPart.loadRam (Config.ramAfterReset s.draws)
    bus := s.bus
    draws := s.draws + 1
    env := s.env }

/-- One input applied (R260). -/
def applyInput (s : State) (x : Input) : State :=
  match x with
  | .reset => resetInput s
  | .tick => tickBoundary s
  | .enqueue id => enqueue id s

def Input.isReset : Input → Bool
  | .reset => true
  | .tick => false
  | .enqueue _ => false

def Input.isTick : Input → Bool
  | .reset => false
  | .tick => true
  | .enqueue _ => false

def Input.isEnqueue : Input → Bool
  | .reset => false
  | .tick => false
  | .enqueue _ => true

/-- Inputs pending together in the order they are applied (R262): reset, then tick, then enqueues in arrival order
(log entry 11). -/
def inputOrder (xs : List Input) : List Input :=
  xs.filter Input.isReset ++ xs.filter Input.isTick ++ xs.filter Input.isEnqueue

/-- All inputs pending at one boundary applied (R262). -/
def applyInputs (xs : List Input) (s : State) : State := (inputOrder xs).foldl applyInput s

/-- The inputs pending at this boundary. -/
def State.pendingInputs (s : State) : List Input := s.env.headD []

/-- The boundary: the inputs pending at it are applied and used up (R260, R262). -/
def acceptInputs (s : State) : State := applyInputs s.pendingInputs (s.setEnv s.env.tail)

end Sys2Proof.Machine
end

