-- ==== Sys2Proof/Machine/Step.lean ====
section
/-! DEFINITION. One step of the machine (60_exceptions.md R262): the inputs pending at the boundary, then one step of the
core. -/

namespace Sys2Proof.Machine

/-- R262 step 4: fetch, decode and execute the instruction at PC. -/
def instrStep (s : State) : Host.Outcome State Fault Refusal :=
  match fetchInstr s with
  | .error e => .next (raiseFault e.kind e.base s)
  | .ok i => exec i s

/-- R262 steps 3 and 4: with FLAGS.I = 1 and an event queued, the EVENT dispatch; else the instruction. -/
def eventOrInstr (s : State) : Host.Outcome State Fault Refusal :=
  match s.flag .i, s.evq with
  | true, id :: rest => .next (dispatchEvent id rest s)
  | true, [] => instrStep s
  | false, _ => instrStep s

/-- R262 steps 1 to 4, from a boundary at which the inputs have been applied. -/
def coreStep (s : State) : Host.Outcome State Fault Refusal :=
  match s.runState with
  | .run => if s.qovf then .next (raiseFault .evqOverflow 0 (s.setQovf false)) else eventOrInstr s
  | .haltTick => .next s
  | .haltBudget => .next s
  | .haltPerm => .next s

/-- One step: the inputs, then the core (R260, R262). -/
def step (s : State) : Host.Outcome State Fault Refusal := coreStep (acceptInputs s)

/-- The state with an instruction placed where the next step fetches it, at PC (log entry 2). -/
def State.withFetchWord (s : State) (nbits w : Nat) : State := placeWords nbits w s

end Sys2Proof.Machine
end

