-- ==== Sys2Proof/Safety.lean ====
section
/-! DEFINITION. The words claims are made in: which accesses are legal, what an access, a dispatch, a fault, a charge of cycles
and an instruction's end leave in the state, field by field, and the invariants of a run. None of it is used by the machine.

Three clauses recur in these predicates and rest on decisions the spec marks as its own: PC moves by 2 for each word (decision D1), the
budget fault is raised at 640 and recorded as in 60_exceptions.md section 5 (D17, D37), and the fault PC is the PC of the faulting
instruction (D11). Log entry 21. -/

namespace Sys2Proof.Machine

/-! ## Legal accesses (20_memory.md R61, R62, R68 to R72) -/

/-- A fetch is legal: an even address of ROM or RAM (R68). -/
abbrev FetchLegal (a : Word) : Prop := a.toNat % 2 = 0 ∧ a.toNat < 0xE000

/-- A data read is legal: an even address of ROM, RAM, MMIO or DIAG (R62, R70). -/
abbrev ReadLegal (a : Word) : Prop := a.toNat % 2 = 0 ∧ a.toNat < 0xF100

/-- A data write is legal: an even address of RAM or MMIO (R62, R71). -/
abbrev WriteLegal (a : Word) : Prop := a.toNat % 2 = 0 ∧ 0x4000 ≤ a.toNat ∧ a.toNat < 0xF000

/-- An access of an MMIO instruction is legal: an even address of the MMIO region (R72). -/
abbrev MmioLegal (a : Word) : Prop := a.toNat % 2 = 0 ∧ 0xE000 ≤ a.toNat ∧ a.toNat < 0xF000

/-- The kind of fault of a data access that is not legal (R70, R71): alignment is checked before the region. -/
def accessFault (a : Word) : FaultKind :=
  if a.toNat % 2 = 1 then (if 0xE000 ≤ a.toNat ∧ a.toNat < 0xF000 then .mmio else .unaligned) else .access

/-- The kind of fault of an MMIO instruction's access that is not legal (R72). -/
def mmioAccessFault (a : Word) : FaultKind := if a.toNat % 2 = 1 then .mmio else .access

/-- The three pushes of a dispatch entry can be made, SP being `sp` (R273). -/
abbrev PushesLegal (sp : Word) : Prop := WriteLegal (sp - 2#16) ∧ WriteLegal (sp - 4#16) ∧ WriteLegal (sp - 6#16)

/-- The kind of fault of the first push of an entry that cannot be made, SP being `sp` (R273). -/
def pushFault (sp : Word) : FaultKind :=
  if ¬ WriteLegal (sp - 2#16) then accessFault (sp - 2#16)
  else if ¬ WriteLegal (sp - 4#16) then accessFault (sp - 4#16)
  else accessFault (sp - 6#16)

/-- The extension word of AM 010 is the sign extension of its own low byte: it lies in 0x0000..0x007F or 0xFF80..0xFFFF (R105). -/
abbrev DispLegal (ext : Word) : Prop := ext.toNat < 0x80 ∨ 0xFF80 ≤ ext.toNat

/-- The high byte of SWI's extension word is 0 (R106). -/
abbrev SwiLegal (ext : Word) : Prop := ext.toNat < 0x100

/-- Bits 14..4 of SCV's control word are 0 (R106). -/
abbrev ScvLegal (ext : Word) : Prop := ext.toNat / 16 % 2048 = 0

/-! ## What stays as it was -/

def SameRegs (s t : State) : Prop := ∀ q, t.reg q = s.reg q
def SameRegsBut (rd : Reg) (s t : State) : Prop := ∀ q, q ≠ rd → t.reg q = s.reg q

/-- Every byte of memory reads as before. -/
def SameMem (s t : State) : Prop := ∀ x : Nat, t.mem.read x = s.mem.read x

/-- Every byte of memory but the two of the word at `a` reads as before. -/
def SameMemBut (a : Word) (s t : State) : Prop := ∀ x : Nat, x ≠ a.toNat → x ≠ a.toNat + 1 → t.mem.read x = s.mem.read x

/-- No device was reached, and the voter was asked nothing. -/
def SameDevices (s t : State) : Prop := t.bus = s.bus ∧ t.draws = s.draws ∧ t.inhibit = s.inhibit

/-- The event queue with its bitmap and its overflow latch. -/
def SameQueue (s t : State) : Prop := t.evq = s.evq ∧ t.evp = s.evp ∧ t.qovf = s.qovf

/-- CAUSE and the handler context. -/
def SameContext (s t : State) : Prop := t.cause = s.cause ∧ t.hctx = s.hctx

/-- What no instruction and no dispatch ever changes. -/
def SameFixed (s t : State) : Prop := t.cap = s.cap ∧ t.brecov = s.brecov ∧ t.env = s.env

/-- The special registers and hidden state that an instruction of the plain families leaves alone. -/
def SameCore (s t : State) : Prop := SameQueue s t ∧ SameContext s t ∧ SameFixed s t

/-! ## The diagnostics record (10_state.md R46) -/

/-- A fault of kind `k`, FK_BUDGET among them, was recorded at `pc` and `tick` (R280 step 3, R290): the three latches hold it, the kind's
counter went up by one unless it was 0xFFFF, and the other counters are as before. -/
structure Recorded (k : FaultKind) (pc tick : Word) (d e : Diag) : Prop where
  code : e.lastFaultCode = Config.faultCode k
  pc : e.lastFaultPc = pc
  tick : e.lastFaultTick = tick
  count : (e.faultCount.get k).toNat = min 0xFFFF ((d.faultCount.get k).toNat + 1)
  others : ∀ q, q ≠ k → e.faultCount.get q = d.faultCount.get q
  instrs : e.instrCount = d.instrCount

/-- One instruction was counted (R262 step 4): the counter went up by one unless it was 0xFFFF, and no fault was recorded. -/
structure InstrCounted (d e : Diag) : Prop where
  instrs : e.instrCount.toNat = min 0xFFFF (d.instrCount.toNat + 1)
  code : e.lastFaultCode = d.lastFaultCode
  pc : e.lastFaultPc = d.lastFaultPc
  tick : e.lastFaultTick = d.lastFaultTick
  counts : ∀ q, e.faultCount.get q = d.faultCount.get q

/-! ## TICK, RUNSTATE and DIAG after cycles are added (60_exceptions.md R262 step 4, R290) -/

/-- `n` cycles were added; `r` and `d` are what RUNSTATE and DIAG are unless the budget fault is raised. -/
structure Charged (n : Nat) (r : RunState) (d : Diag) (s t : State) : Prop where
  tick : t.tick = s.tick + BitVec.ofNat 16 n
  within : t.tick.toNat < 640 → t.runState = r ∧ t.diag = d
  beyond : 640 ≤ t.tick.toNat →
    t.runState = (if s.brecov then .haltPerm else .haltBudget) ∧ t.diag = d.record .budget t.pc t.tick

/-- The instruction retired at a cost: TICK grew by it, the instruction was counted, the budget was checked. -/
def Retired (cost : Nat) (s t : State) : Prop := Charged cost s.runState s.diag.countInstr s t

/-! ## FLAGS (10_state.md R26, R27) -/

/-- Z and N are those of the result `r`, C and V are as given, and bits 15..4 are as before. -/
structure FlagsOf (r : Word) (c v : Bool) (s t : State) : Prop where
  z : t.flag .z = decide (r.toNat = 0)
  n : t.flag .n = decide (r.toInt < 0)
  c : t.flag .c = c
  v : t.flag .v = v
  high : ∀ j, 4 ≤ j → j < 16 → t.flags.getLsbD j = s.flags.getLsbD j

/-! ## How an instruction ends -/

/-- The instruction retired at a cost, left PC and SP as given, and touched no special register or hidden state beyond these, FLAGS, TICK,
RUNSTATE and DIAG. -/
structure Ended (cost : Nat) (pc sp : Word) (s t : State) : Prop where
  pc : t.pc = pc
  sp : t.sp = sp
  core : SameCore s t
  retired : Retired cost s t

/-- `v` was written to `rd`, and no other general register changed. -/
def Wrote (rd : Reg) (v : Word) (s t : State) : Prop := t.reg rd = v ∧ SameRegsBut rd s t

/-- An instruction of `words` words that reaches neither memory nor a device wrote `v` to `rd`; FLAGS are not spoken of. -/
def RegResult (words cost : Nat) (rd : Reg) (v : Word) (s t : State) : Prop :=
  Ended cost (s.pc + BitVec.ofNat 16 (2 * words)) s.sp s t ∧ Wrote rd v s t ∧ SameMem s t ∧ SameDevices s t

/-- A register result with the flags of R27's first row: Z and N from it, C and V cleared. -/
def MoveResult (words cost : Nat) (rd : Reg) (v : Word) (s t : State) : Prop :=
  RegResult words cost rd v s t ∧ FlagsOf v false false s t

/-- A register result that leaves FLAGS alone. -/
def QuietResult (words cost : Nat) (rd : Reg) (v : Word) (s t : State) : Prop :=
  RegResult words cost rd v s t ∧ t.flags = s.flags

/-- No general register, no byte of memory and no device changed; FLAGS are not spoken of. -/
def NoResult (cost : Nat) (pc : Word) (s t : State) : Prop :=
  Ended cost pc s.sp s t ∧ SameRegs s t ∧ SameMem s t ∧ SameDevices s t

/-- Nor did a flag: all the instruction did is to move PC. -/
def JumpResult (cost : Nat) (pc : Word) (s t : State) : Prop := NoResult cost pc s t ∧ t.flags = s.flags

/-- ADD (R161): the sum modulo 65536, C the carry out of bit 15, V that the signed sum does not fit. -/
def SumResult (words : Nat) (rd : Reg) (a b : Word) (s t : State) : Prop :=
  RegResult words 1 rd (BitVec.ofNat 16 (a.toNat + b.toNat)) s t ∧
    FlagsOf (BitVec.ofNat 16 (a.toNat + b.toNat)) (decide (65536 ≤ a.toNat + b.toNat))
      (decide (a.toInt + b.toInt < -32768 ∨ 32767 < a.toInt + b.toInt)) s t

/-- The flags of SUB and CMP (R162): those of the difference modulo 65536, C the borrow, V that the signed difference does not fit. -/
def DifferenceFlags (a b : Word) (s t : State) : Prop :=
  FlagsOf (BitVec.ofInt 16 ((a.toNat : Int) - (b.toNat : Int))) (decide (a.toNat < b.toNat))
    (decide (a.toInt - b.toInt < -32768 ∨ 32767 < a.toInt - b.toInt)) s t

/-- The C flag of SHL and SHR (R166, R167): unchanged for a count of 0, else the last bit shifted out. -/
def shiftedOut (count : Nat) (last : Bool) (s : State) : Bool := if count = 0 then s.flag .c else last

/-- A conditional branch (R202): 2 cycles and the target when taken, 1 cycle and the next instruction when not. -/
def BranchResult (taken : Prop) (ext : Word) (s t : State) : Prop :=
  (taken → JumpResult 2 (s.pc + 4#16 + ext) s t) ∧ (¬ taken → JumpResult 1 (s.pc + 4#16) s t)

/-! ## Events that arrive (60_exceptions.md R284) -/

/-- The ids were posted in order: as many as fit in four places are queued, EVP follows, and one that does not fit latches QOVF. -/
structure Posted (ids : List Byte) (s t : State) : Prop where
  evq : t.evq = s.evq ++ ids.take (4 - s.evq.length)
  evp : t.evp = if ids.take (4 - s.evq.length) = [] then s.evp else evpOf t.evq
  qovf : t.qovf = (s.qovf || decide (ids ≠ [] ∧ 4 < s.evq.length + ids.length))

/-- The boundary has been passed: its inputs are used up and none is pending, the later ones are as before. -/
def State.withNoInput (s : State) : State := s.setEnv ([] :: s.env.tail)

/-! ## Data accesses -/

/-- A legal data read of `a` answered `v`, from the memory and the devices of `s`, and left those of `t` (R70, R75); `d` is the diagnostics
record the core has at the read. -/
structure DataRead (d : Diag) (a v : Word) (s t : State) : Prop where
  mem : SameMem s t
  inhibit : t.inhibit = s.inhibit
  plain : a.toNat < 0xE000 → v = s.mem.read a.toNat ++ s.mem.read (a.toNat + 1) ∧ t.bus = s.bus ∧ t.draws = s.draws
  device : 0xE000 ≤ a.toNat → a.toNat < 0xF000 →
    v = Config.deviceRead s.draws s.bus a ∧ t.bus = .read a v :: s.bus ∧ t.draws = s.draws + 1
  diag : 0xF000 ≤ a.toNat → v = Config.diagRead d s.inhibit a ∧ t.bus = s.bus ∧ t.draws = s.draws

/-- A device received `v` at `a`, or the voter suppressed the write and INHIBIT is latched (R79). -/
structure DeviceWritten (a v : Word) (s t : State) : Prop where
  mem : SameMem s t
  draws : t.draws = s.draws + 1
  allowed : Config.voterAllows s.draws s.bus a v = true → t.bus = .write a v :: s.bus ∧ t.inhibit = s.inhibit
  inhibited : Config.voterAllows s.draws s.bus a v = false → t.bus = s.bus ∧ t.inhibit = true

/-- A legal data write of `v` to `a` was made (R71, R79): the high byte at the lower address, every other byte as before. -/
structure DataWritten (a v : Word) (s t : State) : Prop where
  ram : a.toNat < 0xE000 →
    t.mem.read a.toNat = v.extractLsb' 8 8 ∧ t.mem.read (a.toNat + 1) = v.extractLsb' 0 8 ∧ SameMemBut a s t ∧ SameDevices s t
  device : 0xE000 ≤ a.toNat → DeviceWritten a v s t

/-- A device was read at `a`, answered `v`, and was then written `w` as one operation (R241). -/
def ReadThenWritten (a v w : Word) (s t : State) : Prop :=
  v = Config.deviceRead s.draws s.bus a ∧ SameMem s t ∧ t.draws = s.draws + 2 ∧
    (Config.voterAllows (s.draws + 1) (.read a v :: s.bus) a w = true →
      t.bus = .write a w :: .read a v :: s.bus ∧ t.inhibit = s.inhibit) ∧
    (Config.voterAllows (s.draws + 1) (.read a v :: s.bus) a w = false →
      t.bus = .read a v :: s.bus ∧ t.inhibit = true)

/-! ## Dispatch (60_exceptions.md R270 to R282) -/

/-- The CAUSE word of a class and a code (R30): class in bits 15..12, subcode 0, code in bits 7..0. -/
def causeOf (cls : DispatchClass) (code : Byte) : Word :=
  match cls with
  | .trap => 0x10#8 ++ code
  | .event => 0x20#8 ++ code
  | .fault => 0x30#8 ++ code

/-- The handler address: the word stored at the class's vector (R271). -/
def handlerOf (cls : DispatchClass) (s : State) : Word :=
  match cls with
  | .trap => s.mem.read 0x0008 ++ s.mem.read 0x0009
  | .event => s.mem.read 0x000A ++ s.mem.read 0x000B
  | .fault => s.mem.read 0x000C ++ s.mem.read 0x000D

/-- The frame was stored (R272): the resume PC at SP - 2, FLAGS from before the entry at SP - 4, CAUSE at SP - 6, in this order; every
other byte of memory as before. -/
def FrameStored (resume cause : Word) (s t : State) : Prop :=
  (∃ u v, DataWritten (s.sp - 2#16) resume s u ∧ DataWritten (s.sp - 4#16) s.flags u v ∧ DataWritten (s.sp - 6#16) cause v t) ∧
    ∀ x : Nat, (∀ a, a = s.sp - 2#16 ∨ a = s.sp - 4#16 ∨ a = s.sp - 6#16 → x ≠ a.toNat ∧ x ≠ a.toNat + 1) →
      t.mem.read x = s.mem.read x

/-- A dispatch entry of a class was made (R270 steps 1 to 8); TICK, RUNSTATE, DIAG and the event queue are not spoken of. -/
structure Dispatched (cls : DispatchClass) (code : Byte) (resume : Word) (s t : State) : Prop where
  cause : t.cause = causeOf cls code
  handed : t.reg .r0 = code.setWidth 16
  regs : SameRegsBut .r0 s t
  stored : FrameStored resume (causeOf cls code) s t
  sp : t.sp = s.sp - 6#16
  flagI : t.flag .i = false
  flagF : t.flag .f = (s.flag .f || decide (cls = .fault))
  flags : ∀ j, j < 16 → j ≠ 4 → j ≠ 5 → t.flags.getLsbD j = s.flags.getLsbD j
  pc : t.pc = handlerOf cls s
  context : t.hctx = cls :: s.hctx
  fixed : SameFixed s t

/-- A fault of kind `k` (not FK_BUDGET) was raised with base cost `base` (R280): recorded and dispatched, or, if it is a double fault,
recorded and the core halted for good with nothing else changed (R282). -/
structure FaultTaken (k : FaultKind) (base : Nat) (s t : State) : Prop where
  dispatched : DispatchClass.fault ∉ s.hctx → PushesLegal s.sp →
    Dispatched .fault (Config.faultCode k) s.pc s t ∧ SameQueue s t ∧
      Charged (base + 5) s.runState (s.diag.record k s.pc s.tick) s t
  double : DispatchClass.fault ∈ s.hctx ∨ ¬ PushesLegal s.sp →
    t = { s with diag := s.diag.record k s.pc s.tick, runState := .haltPerm }

/-- What a LOAD of `words` words from `ea` leaves (R151): the word read in `rd`, the flags from it, and 2 cycles; or the fault of the access. -/
def LoadResult (words : Nat) (rd : Reg) (ea : Word) (s t : State) : Prop :=
  (ReadLegal ea →
    Ended 2 (s.pc + BitVec.ofNat 16 (2 * words)) s.sp s t ∧
      ∃ v, Wrote rd v s t ∧ FlagsOf v false false s t ∧ DataRead s.diag ea v s t) ∧
    (¬ ReadLegal ea → FaultTaken (accessFault ea) 2 s t)

/-- What a STORE of `words` words of the word `v` to `ea` leaves (R152): the word in memory or at the device, no register and no flag
changed, and 2 cycles; or the fault of the access. -/
def StoreResult (words : Nat) (v ea : Word) (s t : State) : Prop :=
  (WriteLegal ea →
    Ended 2 (s.pc + BitVec.ofNat 16 (2 * words)) s.sp s t ∧ SameRegs s t ∧ t.flags = s.flags ∧ DataWritten ea v s t) ∧
    (¬ WriteLegal ea → FaultTaken (accessFault ea) 2 s t)

/-- A TRAP or SWI of `words` words with trap id `id` (R143, R144): the TRAP dispatch with the next instruction as resume PC and 1 + 5 cycles;
or the fault of the first push that cannot be made. -/
def TrapResult (words : Nat) (id : Byte) (s t : State) : Prop :=
  (PushesLegal s.sp →
    Dispatched .trap id (s.pc + BitVec.ofNat 16 (2 * words)) s t ∧ SameQueue s t ∧
      Charged 6 s.runState s.diag.countInstr s t) ∧
    (¬ PushesLegal s.sp → FaultTaken (pushFault s.sp) 1 s t)

/-- Nothing stands between the state and its next instruction (R262): no input is pending, the core runs, no overflow is latched and no event
is to be dispatched. -/
def AtInstruction (s : State) : Prop :=
  s.pendingInputs = [] ∧ s.runState = .run ∧ s.qovf = false ∧ (s.flag .i = false ∨ s.evq = [])

/-! ## Encodings (30_encoding.md R101, R122) -/

/-- The primary word of a form whose match is `base`, with the fields RD and RA. -/
def formWord (base : Nat) (rd ra : Reg) : Word := BitVec.ofNat 16 (base + 512 * rd.bits.toNat + 64 * ra.bits.toNat)

/-- The primary word of that form, followed by the extension word `ext`, is the instruction `i`. -/
def IsWords (base : Nat) (rd ra : Reg) (ext : Word) (i : Instr) : Prop := decodeWords (formWord base rd ra) ext = .ok i

/-! ## Illegal primary words by cause (30_encoding.md R111) -/

/-- A reserved or unassigned operation: OP 0xB to 0xF, or a SUB its OP does not assign (R107, R111). -/
abbrev OpUnassigned (w : Word) : Prop :=
  11 ≤ (opField w).toNat ∨ ((opField w).toNat = 0 ∧ 5 ≤ (subField w).toNat) ∨ ((opField w).toNat = 5 ∧ (subField w).toNat = 7) ∨
    ((opField w).toNat = 7 ∧ 2 ≤ (subField w).toNat) ∨ ((opField w).toNat = 8 ∧ 2 ≤ (subField w).toNat) ∨
    ((opField w).toNat = 9 ∧ 3 ≤ (subField w).toNat) ∨ ((opField w).toNat = 10 ∧ 3 ≤ (subField w).toNat)

/-- An AM that the operation does not admit, the reserved 110 and 111 among them (R103, R112, R120). -/
abbrev AmNotAdmitted (w : Word) : Prop :=
  6 ≤ (amField w).toNat ∨ ((opField w).toNat = 0 ∧ (amField w).toNat ≠ if (subField w).toNat = 4 then 4 else 0) ∨
    (((opField w).toNat = 1 ∨ (opField w).toNat = 4 ∨ (opField w).toNat = 5) ∧ (amField w).toNat ≠ 0 ∧ (amField w).toNat ≠ 4) ∨
    (((opField w).toNat = 2 ∨ (opField w).toNat = 3) ∧ ((amField w).toNat = 0 ∨ (amField w).toNat = 4)) ∨
    ((opField w).toNat = 5 ∧ (subField w).toNat = 6 ∧ (amField w).toNat ≠ 4) ∨
    ((opField w).toNat = 6 ∧ (amField w).toNat ≠ 5 ∧ ¬ ((subField w).toNat = 7 ∧ (amField w).toNat = 0)) ∨
    (((opField w).toNat = 7 ∨ (opField w).toNat = 10) ∧ (amField w).toNat ≠ 0) ∨
    (((opField w).toNat = 8 ∨ (opField w).toNat = 9) ∧ (amField w).toNat ≠ 3)

/-- A register field RD or RA that the form names no register through, and that is not 000 (R120, last column). -/
abbrev RegisterFieldUnused (w : Word) : Prop :=
  (rdField w ≠ 0#3 ∧
    (((opField w).toNat = 0 ∧ (subField w).toNat ≠ 3) ∨ ((opField w).toNat = 4 ∧ (subField w).toNat = 7) ∨ (opField w).toNat = 6 ∨
      ((opField w).toNat = 10 ∧ (subField w).toNat ≠ 1))) ∨
    (raField w ≠ 0#3 ∧
      ((opField w).toNat = 0 ∨ ((opField w).toNat = 1 ∧ (amField w).toNat = 4) ∨
        (((opField w).toNat = 2 ∨ (opField w).toNat = 3) ∧ ((amField w).toNat = 3 ∨ (amField w).toNat = 5)) ∨ 6 ≤ (opField w).toNat))

/-- A SUB field that is not 000 in OP 0x1 to 0x3, which have no sub-opcode (R113). -/
abbrev SubFieldUnused (w : Word) : Prop := 1 ≤ (opField w).toNat ∧ (opField w).toNat ≤ 3 ∧ (subField w).toNat ≠ 0

/-! ## Which register an instruction may write (30_encoding.md R102, R120) -/

/-- The destination register of an instruction that has one. -/
def destination : Instr → Option Reg
  | .movReg rd _ => some rd
  | .movImm rd _ => some rd
  | .loadInd rd _ => some rd
  | .loadDisp rd _ _ => some rd
  | .loadAbs rd _ => some rd
  | .loadPcrel rd _ => some rd
  | .addReg rd _ => some rd
  | .addImm rd _ _ => some rd
  | .subReg rd _ => some rd
  | .subImm rd _ _ => some rd
  | .andReg rd _ => some rd
  | .andImm rd _ _ => some rd
  | .orReg rd _ => some rd
  | .orImm rd _ _ => some rd
  | .xorReg rd _ => some rd
  | .xorImm rd _ _ => some rd
  | .shlReg rd _ => some rd
  | .shlImm rd _ _ => some rd
  | .shrReg rd _ => some rd
  | .shrImm rd _ _ => some rd
  | .mulReg rd _ => some rd
  | .mulImm rd _ _ => some rd
  | .mulhReg rd _ => some rd
  | .mulhImm rd _ _ => some rd
  | .divReg rd _ => some rd
  | .divImm rd _ _ => some rd
  | .modReg rd _ => some rd
  | .modImm rd _ _ => some rd
  | .qaddReg rd _ => some rd
  | .qaddImm rd _ _ => some rd
  | .qsubReg rd _ => some rd
  | .qsubImm rd _ _ => some rd
  | .scv rd _ _ => some rd
  | .pop rd => some rd
  | .inp rd _ => some rd
  | .eget rd => some rd
  | .nop => none
  | .sync => none
  | .halt => none
  | .trap _ => none
  | .swi _ => none
  | .storeInd _ _ => none
  | .storeDisp _ _ _ => none
  | .storeAbs _ _ => none
  | .storePcrel _ _ => none
  | .cmpReg _ => none
  | .cmpImm _ _ => none
  | .beq _ => none
  | .bne _ => none
  | .blt _ => none
  | .ble _ => none
  | .bgt _ => none
  | .bge _ => none
  | .jmp _ => none
  | .call _ => none
  | .ret => none
  | .push _ => none
  | .out _ _ => none
  | .bset _ _ => none
  | .bclr _ _ => none
  | .btest _ _ => none
  | .ewait => none
  | .eret => none

/-! ## Invariants of a run -/

/-- FLAGS bits 15..6 read as 0 (R26). -/
def State.reservedFlagsZero (s : State) : Prop := ∀ j, 6 ≤ j → j < 16 → s.flags.getLsbD j = false

/-- SP is even (R25, R223). -/
def State.stackAligned (s : State) : Prop := s.sp.toNat % 2 = 0

/-- EVQ holds at most four events, and EVP is the function of it that R31 names (R40). -/
def State.queueBounded (s : State) : Prop := s.evq.length ≤ 4 ∧ s.evp = evpOf s.evq

/-- A core that is not halted by a fault is below the budget (R29, R290). -/
def State.tickBelowBudget (s : State) : Prop :=
  s.runState = .run ∨ s.runState = .haltTick → s.tick.toNat < 640

/-- All of them, with the memory in its canonical form and CAP as the authority profile sets it (R28). -/
structure State.Inv (s : State) : Prop where
  mem : s.mem.wf = true
  flags : s.reservedFlagsZero
  sp : s.stackAligned
  queue : s.queueBounded
  cap : s.cap = 0x000F#16
  tick : s.tickBelowBudget

end Sys2Proof.Machine
end

