-- ==== Sys2Proof/Certificates/Slice0/Obligations.lean ====
section
/-! DEFINITION. The statements for the provers. The words they are made in are those of Sys2Proof/Safety.lean. Clauses that a docstring
calls a decision follow 92_eei_decisions.md (log entry 21) or the log entry it names; every statement that speaks of PC moving by 2 for each
word, or of the budget check, rests there on D1, D17 and D37; every statement whose clauses take a fault or a dispatch rests there on log entry
18 (PRESUMED: which byte of a word lies lower, for the frame and the vector word), and on log entries 7 and 12 where a push of the frame reaches
the MMIO region. -/

open Sys2Proof Sys2Proof.Machine

/-! ## Reset and the invariants of a run -/

/-- 10_state.md R50: the reset values of the registers. CAP, which R50 leaves to the hardware, is 0x000F by decision D30 (R28; log entry 30,
DEDUCED). -/
def Obligations.ResetGivesTheSpecifiedRegisters : Prop :=
  State.reset.pc = 0x0000#16 ∧ State.reset.sp = 0xE000#16 ∧ (∀ q, State.reset.reg q = 0x0000#16) ∧
    State.reset.flags = 0x0000#16 ∧ State.reset.tick = 0x0000#16 ∧ State.reset.evp = 0x0000#16 ∧
    State.reset.cause = 0x0000#16 ∧ State.reset.cap = 0x000F#16

/-- The invariant holds after reset, and the hidden state is as R51 gives it: queue, overflow latch, run state, recovery bit, handler context and
inhibit latch (decision D39). That the invariant has CAP at 0x000F is decision D30 (log entry 30). -/
def Obligations.ResetMeetsTheInvariant : Prop :=
  State.reset.Inv ∧ State.reset.evq = [] ∧ State.reset.qovf = false ∧ State.reset.runState = .run ∧
    State.reset.brecov = false ∧ State.reset.hctx = [] ∧ State.reset.inhibit = false

/-- The memory stays in its canonical form (the model's own invariant, log entry 1). -/
def Obligations.StepKeepsMemoryCanonical : Prop :=
  ∀ s t : State, s.mem.wf = true → step s = .next t → t.mem.wf = true

/-- R26: bits 15..6 of FLAGS read as 0, whatever ERET pops. -/
def Obligations.StepKeepsReservedFlagsZero : Prop :=
  ∀ s t : State, s.reservedFlagsZero → step s = .next t → t.reservedFlagsZero

/-- R223: SP is always even. The spec marks this as derived. -/
def Obligations.StepKeepsStackAligned : Prop :=
  ∀ s t : State, s.stackAligned → step s = .next t → t.stackAligned

/-- R40, R31: the queue never holds more than four events, and EVP follows it (EVP as a function of EVQ is decision D31, log entry 9). -/
def Obligations.StepKeepsQueueBounded : Prop :=
  ∀ s t : State, s.queueBounded → step s = .next t → t.queueBounded

/-- R290: a core that runs, or that HALT stopped for the tick, has used fewer than 640 cycles (D17, D37). -/
def Obligations.StepKeepsTickBelowBudget : Prop :=
  ∀ s t : State, s.tickBelowBudget → step s = .next t → t.tickBelowBudget

/-- R62, R28: no step, not even reset, changes a byte of ROM, and none changes CAP from its authority value (decision D30, log entry 30). -/
def Obligations.StepNeverChangesRomOrCap : Prop :=
  ∀ s t : State, step s = .next t →
    (∀ x, x < 0x4000 → t.mem.read x = s.mem.read x) ∧ (s.cap = 0x000F#16 → t.cap = 0x000F#16)

/-! ## Rules about the whole machine -/

/-- R33: only an ERET can make FLAGS.I become 1. The spec marks this as derived. -/
def Obligations.OnlyEretEnablesEvents : Prop :=
  ∀ s t : State, step s = .next t → s.flag .i = false → t.flag .i = true →
    (acceptInputs s).runState = .run ∧ fetchInstr (acceptInputs s) = .ok .eret

/-- R21: a general register that is not the instruction's destination is unchanged, but for R0, which changes only where a dispatch was
entered and is then CAUSE's low byte. -/
def Obligations.RegistersChangeOnlyAsDestinations : Prop :=
  ∀ (i : Instr) (s t : State) (q : Reg), exec i s = .next t → destination i ≠ some q →
    t.reg q = s.reg q ∨ (q = .r0 ∧ (∃ cls, t.hctx = cls :: s.hctx) ∧ t.reg .r0 = t.cause &&& 0x00FF#16)

/-- R32: SP only ever moves by 2 (PUSH, CALL, POP, RET) or by 6 (a dispatch, ERET). The spec marks this as derived. -/
def Obligations.StackPointerMovesOnlyByTwoOrSix : Prop :=
  ∀ (i : Instr) (s t : State), exec i s = .next t →
    t.sp = s.sp ∨ t.sp = s.sp - 2#16 ∨ t.sp = s.sp + 2#16 ∨ t.sp = s.sp - 6#16 ∨ t.sp = s.sp + 6#16

/-- No step stops: every fault of the spec is dispatched or ends in a halted state (log entry 22). -/
def Obligations.EveryStepAnswersANextState : Prop := ∀ s : State, ∃ t, step s = .next t

/-- R42, R293: a permanently halted core does nothing until reset. TICK becomes 0 at a tick boundary and is unchanged without one, and the
posted events `ids` go to the queue (accepted while halted: decision D38; EVP: log entry 9); all else is unchanged. -/
def Obligations.PermanentHaltEndsOnlyByReset : Prop :=
  ∀ (s : State) (ids : List Byte), s.runState = .haltPerm → Input.reset ∉ s.pendingInputs →
    s.pendingInputs.filter Input.isEnqueue = ids.map Input.enqueue →
    ∃ t, step s = .next t ∧ t.runState = .haltPerm ∧ t.tick = (if Input.tick ∈ s.pendingInputs then 0x0000#16 else s.tick) ∧
      Posted ids s t ∧ SameRegs s t ∧ t.pc = s.pc ∧ t.sp = s.sp ∧ t.flags = s.flags ∧ SameContext s t ∧ SameMem s t ∧
      SameDevices s t ∧ t.diag = s.diag ∧ t.cap = s.cap ∧ t.brecov = s.brecov

/-- R142, R293: events that arrive while HALT or a budget fault (decision D17) has stopped the core do not wake it: no instruction is run,
nothing is dispatched, and the queue alone changes (decision D38; the overflow latch is decision D20, EVP log entry 9). -/
def Obligations.EventsDoNotWakeAHaltedCore : Prop :=
  ∀ (s : State) (ids : List Byte), s.runState = .haltTick ∨ s.runState = .haltBudget → s.pendingInputs = ids.map Input.enqueue →
    ∃ t, step s = .next t ∧ t.runState = s.runState ∧ t.tick = s.tick ∧ Posted ids s t ∧ SameRegs s t ∧ t.pc = s.pc ∧
      t.sp = s.sp ∧ t.flags = s.flags ∧ SameContext s t ∧ SameMem s t ∧ SameDevices s t ∧ t.diag = s.diag ∧ t.cap = s.cap ∧
      t.brecov = s.brecov

/-! ## Encoding -/

/-- Every well-formed instruction is what its own bytes decode to, and the bytes after it are left. Which byte of a word comes first is log entry
18 (PRESUMED). -/
def Obligations.DecodeOfEncodeIsIdentity : Prop :=
  ∀ (i : Instr) (rest : List Byte), i.wellFormed = true → decodeBytes (encodeBytes i ++ rest) = .ok (i, rest)

/-- What decodes is well-formed, and its encoding is the words it was decoded from: no two pairs of words are one instruction. Where the
instruction reads a register B, that register is the one its SUB field numbers (R121; R131: no three-register form; decision D3, log entry
20). -/
def Obligations.EncodeOfDecodeIsIdentity : Prop :=
  ∀ (w ext : Word) (i : Instr), decodeWords w ext = .ok i →
    i.wellFormed = true ∧ encode i = (if i.extWords = 0 then [w] else [w, ext]) ∧
      ∀ b, i.implicitB = some b → b = Reg.ofBits (subField w)

/-- R111: a primary word is illegal exactly when it matches no row of R122, which is exactly when it has one of R111's causes: a reserved OP
or unassigned SUB, an AM that is reserved or not admitted, an unused register field that is not 000, or a SUB in OP 0x1 to 0x3. No two rows share
a word (R122, which the spec derives). The all-zero word is NOP. That AMs the binding table does not list and unused SUB and CMP RD fields
are illegal is decision D27, that SCV has no register form decision D25 (log entry 21). -/
def Obligations.IllegalPrimaryWordsAreThoseOfNoRow : Prop :=
  (∀ w ext : Word, decodeWords w ext = .error .illegalPrimary ↔ ∀ r ∈ opcodeRows, r.covers w = false) ∧
    (∀ (w : Word) (r q : OpcodeRow), r ∈ opcodeRows → q ∈ opcodeRows → r.covers w = true → q.covers w = true → r = q) ∧
    (∀ w ext : Word, decodeWords w ext = .error .illegalPrimary ↔
      OpUnassigned w ∨ AmNotAdmitted w ∨ RegisterFieldUnused w ∨ SubFieldUnused w) ∧
    ∀ ext : Word, decodeWords 0x0000#16 ext = .ok .nop

/-- R66: an instruction word can be fetched from ROM and RAM, and from nowhere else (an odd address is not spoken of). And words written out
from the spec's encodings decode to what the spec says they are (R132, R143, R150, R161, R204, R222, R231, R243, R253). -/
def Obligations.SampleWordsDecode : Prop :=
  (∀ (a : Word) (s : State),
    (region a = .mmio ∨ region a = .diag ∨ region a = .reserved → ∃ k, fetchWord a s = .error k) ∧
    (a.toNat % 2 = 0 → region a = .rom ∨ region a = .ram → ∃ w, fetchWord a s = .ok w)) ∧
  decodeWords 0x22C2#16 0x0005#16 = .ok (.loadDisp .r1 .r3 0x0005#16) ∧ decodeWords 0x0618#16 0#16 = .ok (.trap .r3) ∧
    decodeWords 0x1540#16 0#16 = .ok (.movReg .r2 .r5) ∧ decodeWords 0x4444#16 0x0002#16 = .ok (.addImm .r2 .r1 0x0002#16) ∧
    decodeWords 0x603D#16 0x0100#16 = .ok (.call 0x0100#16) ∧ decodeWords 0x7A08#16 0#16 = .ok (.pop .r5) ∧
    decodeWords 0x8203#16 0xE010#16 = .ok (.inp .r1 0xE010#16) ∧ decodeWords 0x9213#16 0xE020#16 = .ok (.btest .r1 0xE020#16) ∧
    decodeWords 0xA000#16 0#16 = .ok .ewait ∧ decodeWords 0x403C#16 0x0003#16 = .ok (.cmpImm .r0 0x0003#16)

/-! ## Fetch and step -/

/-- When nothing comes before the instruction and the bytes at PC decode to it, a step is `exec` of it, at the state with the boundary's
inputs (none) used up. That bytes make words in this order is log entry 18 (PRESUMED). -/
def Obligations.StepRunsTheDecodedInstruction : Prop :=
  ∀ (s : State) (i : Instr) (rest : List Byte), AtInstruction s → FetchLegal s.pc → (i.extWords = 1 → FetchLegal (s.pc + 2#16)) →
    decodeBytes [s.mem.read s.pc.toNat, s.mem.read (s.pc.toNat + 1), s.mem.read (s.pc.toNat + 2), s.mem.read (s.pc.toNat + 3)]
      = .ok (i, rest) →
    i.wellFormed = true ∧ step s = exec i (s.setEnv s.env.tail)

/-- R110: what is raised when the instruction at PC cannot be fetched or decoded, in the order of the checks: the primary word's fetch, its
legality, the extension word's fetch, its legality; from the second check passed on, at the form's base cost (decisions D5, D7, D29). A fetched word is the byte at the address and the next byte, in
this order: log entry 18 (PRESUMED). -/
def Obligations.FetchAndDecodeFaults : Prop :=
  ∀ s : State, AtInstruction s →
    (¬ FetchLegal s.pc → ∃ t, step s = .next t ∧ FaultTaken .fetch 0 (s.setEnv s.env.tail) t) ∧
    (FetchLegal s.pc → (∀ r ∈ opcodeRows, r.covers (s.mem.read s.pc.toNat ++ s.mem.read (s.pc.toNat + 1)) = false) →
      ∃ t, step s = .next t ∧ FaultTaken .illegal 0 (s.setEnv s.env.tail) t) ∧
    (∀ form : Instr, FetchLegal s.pc → decodeForm (s.mem.read s.pc.toNat ++ s.mem.read (s.pc.toNat + 1)) 0#16 = some form →
      form.extWords = 1 → ¬ FetchLegal (s.pc + 2#16) →
      ∃ t, step s = .next t ∧ FaultTaken .fetch form.baseCost (s.setEnv s.env.tail) t) ∧
    (∀ form : Instr, FetchLegal s.pc → decodeForm (s.mem.read s.pc.toNat ++ s.mem.read (s.pc.toNat + 1)) 0#16 = some form →
      form.extWords = 1 → FetchLegal (s.pc + 2#16) →
      (∀ i, decodeWords (s.mem.read s.pc.toNat ++ s.mem.read (s.pc.toNat + 1)) (s.mem.read (s.pc.toNat + 2) ++ s.mem.read (s.pc.toNat + 3))
        ≠ .ok i) →
      ∃ t, step s = .next t ∧ FaultTaken .illegal form.baseCost (s.setEnv s.env.tail) t)

/-- R61: the five regions. -/
def Obligations.RegionMapIsTheTable : Prop :=
  ∀ a : Word,
    (region a = .rom ↔ a.toNat ≤ 0x3FFF) ∧ (region a = .ram ↔ 0x4000 ≤ a.toNat ∧ a.toNat ≤ 0xDFFF) ∧
      (region a = .mmio ↔ 0xE000 ≤ a.toNat ∧ a.toNat ≤ 0xEFFF) ∧ (region a = .diag ↔ 0xF000 ≤ a.toNat ∧ a.toNat ≤ 0xF0FF) ∧
      (region a = .reserved ↔ 0xF100 ≤ a.toNat ∧ a.toNat ≤ 0xFFFF)

/-- R103, R201: the effective addresses and the PC-relative target as numbers, reduced modulo 65536 (decision D4). -/
def Obligations.EffectiveAddressesWrap : Prop :=
  ∀ (ra rd : Reg) (ext : Word) (s : State),
    eaInd ra s = s.reg ra ∧
      ((eaDisp ra ext s).toNat : Int) = ((s.reg ra).toNat + (ext.setWidth 8).toInt) % 65536 ∧
      (DispLegal ext → ((eaDisp ra ext s).toNat : Int) = ((s.reg ra).toNat + ext.toInt) % 65536) ∧
      ((relTarget (.loadPcrel rd ext) ext s).toNat : Int) = (s.pc.toNat + 4 + ext.toInt) % 65536 ∧
      ((relTarget (.storePcrel rd ext) ext s).toNat : Int) = (s.pc.toNat + 4 + ext.toInt) % 65536 ∧
      ((relTarget (.jmp ext) ext s).toNat : Int) = (s.pc.toNat + 4 + ext.toInt) % 65536

/-! ## Control -/

/-- R140, R141: NOP and SYNC, their encodings; they advance PC and cost 1 cycle, and nothing else changes (NOP's flags: decision D24; SYNC:
derived by the spec). -/
def Obligations.NopAndSyncOnlyAdvance : Prop :=
  ∀ (ext : Word) (s : State), (IsWords 0x0000 .r0 .r0 ext .nop ∧ IsWords 0x0008 .r0 .r0 ext .sync) ∧
    (∃ t, exec .nop s = .next t ∧ JumpResult 1 (s.pc + 2#16) s t) ∧
    (∃ t, exec .sync s = .next t ∧ JumpResult 1 (s.pc + 2#16) s t)

/-- R142: HALT, its encoding; it retires at cost 1 with PC advanced, and RUNSTATE is HALT_TICK unless its own cycle raised the budget fault (derived by the
spec from R290; log entry 27). -/
def Obligations.HaltStopsForTheTick : Prop :=
  ∀ (ext : Word) (s : State), IsWords 0x0010 .r0 .r0 ext .halt ∧ ∃ t, exec .halt s = .next t ∧ t.pc = s.pc + 2#16 ∧ t.sp = s.sp ∧ SameRegs s t ∧ t.flags = s.flags ∧ SameCore s t ∧
    SameMem s t ∧ SameDevices s t ∧ Charged 1 .haltTick s.diag.countInstr s t

/-- R143: TRAP, its encoding, its dispatch with id `R[RD] & 0xFF`, and the fault of a push that cannot be made. It rests on
decisions D1 (PC + 2), D2 (the vector is a pointer), D11 (the resume PC), D16 (all pushes or none), D24 (FLAGS otherwise unwritten), D29 and D6
(the fault of a push) and D17, D37 (the budget check), log entry 21; that the executed-instruction counter counts it is log entry 16. The
single bytes of the frame and of the vector word are log entry 18 (PRESUMED), pushes into the MMIO region log entries 7 and 12. -/
def Obligations.TrapTakesTheTrapDispatch : Prop :=
  ∀ (rd : Reg) (ext : Word) (s : State),
    IsWords 0x0018 rd .r0 ext (.trap rd) ∧
      ∃ t, exec (.trap rd) s = .next t ∧ TrapResult 1 ((s.reg rd).setWidth 8) s t

/-- R144: SWI, its encoding; the TRAP dispatch with id `ext16[7:0]`, resuming after both its words; a non-zero high byte is FK_ILLEGAL at base
cost 1 (decisions D26, D29). The dispatch rests on decisions D1, D2, D11, D16, D17, D24 and D37 as TRAP's does (log entry 21); that the
executed-instruction counter counts SWI is log entry 16. The single bytes of the frame and of the vector word are log entry 18 (PRESUMED), pushes
into the MMIO region log entries 7 and 12. -/
def Obligations.SwiTakesTheTrapDispatch : Prop :=
  ∀ (ext : Word) (s : State),
    (SwiLegal ext → IsWords 0x0024 .r0 .r0 ext (.swi ext)) ∧
    (SwiLegal ext → ∃ t, exec (.swi ext) s = .next t ∧ TrapResult 2 (ext.setWidth 8) s t) ∧
      (¬ SwiLegal ext → ∃ t, exec (.swi ext) s = .next t ∧ FaultTaken .illegal 1 s t)

/-! ## Data movement -/

/-- R150: MOV in both forms, its encodings, its result and flags; a word of OP 0x1 with any other addressing mode, or with an unused field that
is not 000, is illegal (decision D27). PC moves by decision D1, the budget check is D17 and D37 (log entry 21). -/
def Obligations.MovCopiesAndSetsFlags : Prop :=
  ∀ (rd ra : Reg) (ext w : Word) (s : State),
    IsWords 0x1000 rd ra ext (.movReg rd ra) ∧ IsWords 0x1004 rd .r0 ext (.movImm rd ext) ∧
      ((opField w).toNat = 1 →
        ((amField w).toNat ≠ 0 ∧ (amField w).toNat ≠ 4) ∨ (subField w).toNat ≠ 0 ∨ ((amField w).toNat = 4 ∧ raField w ≠ 0#3) →
        decodeWords w ext = .error .illegalPrimary) ∧
      (∃ t, exec (.movReg rd ra) s = .next t ∧ MoveResult 1 1 rd (s.reg ra) s t) ∧
      (∃ t, exec (.movImm rd ext) s = .next t ∧ MoveResult 2 1 rd ext s t)

/-- R151: LOAD in its four addressing modes. It rests on decisions D1, D4 (addresses), D7, D8, D9 (order of checks, readable regions, device
reads), D27, D40, D29 (illegal forms, the sign copy's kind, base 2), D6, D17 and D37 (log entry 21), and on log entries 18 (which byte of the
word lies lower), 6 (what a device answers) and 8 (what DIAG shows). -/
def Obligations.LoadReadsTheWord : Prop :=
  ∀ (rd ra : Reg) (ext : Word) (s : State),
    (IsWords 0x2001 rd ra ext (.loadInd rd ra) ∧ (DispLegal ext → IsWords 0x2002 rd ra ext (.loadDisp rd ra ext)) ∧
        IsWords 0x2003 rd .r0 ext (.loadAbs rd ext) ∧ IsWords 0x2005 rd .r0 ext (.loadPcrel rd ext)) ∧
      (∃ t, exec (.loadInd rd ra) s = .next t ∧ LoadResult 1 rd (eaInd ra s) s t) ∧
      (∃ t, exec (.loadAbs rd ext) s = .next t ∧ LoadResult 2 rd ext s t) ∧
      (∃ t, exec (.loadPcrel rd ext) s = .next t ∧ LoadResult 2 rd (relTarget (.loadPcrel rd ext) ext s) s t) ∧
      (DispLegal ext → ∃ t, exec (.loadDisp rd ra ext) s = .next t ∧ LoadResult 2 rd (eaDisp ra ext s) s t) ∧
      (¬ DispLegal ext → ∃ t, exec (.loadDisp rd ra ext) s = .next t ∧ FaultTaken .illegal 2 s t)

/-- R152: STORE in its four addressing modes. It rests on decisions D1, D4, D7, D8, D9, D27, D40, D29, D6, D17 and D37 as LOAD does (log entry
21), and on log entries 18 (PRESUMED: which byte of the word lies lower), 7 (the voter, D33) and 12 (what reaches a device). -/
def Obligations.StoreWritesTheWord : Prop :=
  ∀ (rd ra : Reg) (ext : Word) (s : State),
    (IsWords 0x3001 rd ra ext (.storeInd rd ra) ∧ (DispLegal ext → IsWords 0x3002 rd ra ext (.storeDisp rd ra ext)) ∧
        IsWords 0x3003 rd .r0 ext (.storeAbs rd ext) ∧ IsWords 0x3005 rd .r0 ext (.storePcrel rd ext)) ∧
      (∃ t, exec (.storeInd rd ra) s = .next t ∧ StoreResult 1 (s.reg rd) (eaInd ra s) s t) ∧
      (∃ t, exec (.storeAbs rd ext) s = .next t ∧ StoreResult 2 (s.reg rd) ext s t) ∧
      (∃ t, exec (.storePcrel rd ext) s = .next t ∧ StoreResult 2 (s.reg rd) (relTarget (.storePcrel rd ext) ext s) s t) ∧
      (DispLegal ext → ∃ t, exec (.storeDisp rd ra ext) s = .next t ∧ StoreResult 2 (s.reg rd) (eaDisp ra ext s) s t) ∧
      (¬ DispLegal ext → ∃ t, exec (.storeDisp rd ra ext) s = .next t ∧ FaultTaken .illegal 2 s t)

/-- R80, R82, R222: in RAM a LOAD reads what the last STORE to the word wrote, whatever another STORE did to another word, and so does
an instruction fetch; a PUSH and a POP copy a register without touching FLAGS (R82 is derived by the spec, decision D42). -/
def Obligations.MemoryReturnsTheLastWrite : Prop :=
  ∀ (rd rq rp : Reg) (a b : Word) (s : State), a.toNat % 2 = 0 → b.toNat % 2 = 0 → region a = .ram → region b = .ram → a ≠ b →
    (∃ u v t, exec (.storeAbs rd a) s = .next u ∧ exec (.storeAbs rp b) u = .next v ∧ exec (.loadAbs rq a) v = .next t ∧
      t.reg rq = s.reg rd ∧ fetchWord a v = .ok (s.reg rd) ∧ fetchWord b v = .ok (s.reg rp)) ∧
    (s.sp = a + 2#16 → ∃ u t, exec (.push rd) s = .next u ∧ exec (.pop rq) u = .next t ∧
      t.reg rq = s.reg rd ∧ t.sp = s.sp ∧ t.flags = s.flags ∧ SameMemBut a s t ∧ SameRegsBut rq s t)

/-! ## Integer ALU. In the register forms B is the register R121 names (decision D3). -/

/-- R161: ADD, its encodings. The formulas of C and V are the spec's general knowledge (log entry 19); B of the register form is log entry 20. -/
def Obligations.AddIsTheSumWithCarryAndOverflow : Prop :=
  ∀ (rd ra : Reg) (ext : Word) (s : State),
    (IsWords 0x4000 rd ra ext (.addReg rd ra) ∧ IsWords 0x4004 rd ra ext (.addImm rd ra ext)) ∧
      (∃ t, exec (.addReg rd ra) s = .next t ∧ SumResult 1 rd (s.reg ra) (s.reg .r0) s t) ∧
      (∃ t, exec (.addImm rd ra ext) s = .next t ∧ SumResult 2 rd (s.reg ra) ext s t)

/-- R162, R168: SUB and CMP, their encodings; they have the same flags, C being the borrow (decision D22; V: log entry 19); CMP writes no
register. B of the register forms is log entry 20. -/
def Obligations.SubAndCmpAreTheDifferenceWithBorrow : Prop :=
  ∀ (rd ra : Reg) (ext : Word) (s : State),
    (IsWords 0x4008 rd ra ext (.subReg rd ra) ∧ IsWords 0x400C rd ra ext (.subImm rd ra ext) ∧
      IsWords 0x4038 .r0 ra ext (.cmpReg ra) ∧ IsWords 0x403C .r0 ra ext (.cmpImm ra ext)) ∧
    (∃ t, exec (.subReg rd ra) s = .next t ∧ DifferenceFlags (s.reg ra) (s.reg .r1) s t ∧
      RegResult 1 1 rd (BitVec.ofInt 16 (((s.reg ra).toNat : Int) - ((s.reg .r1).toNat : Int))) s t) ∧
    (∃ t, exec (.subImm rd ra ext) s = .next t ∧ DifferenceFlags (s.reg ra) ext s t ∧
      RegResult 2 1 rd (BitVec.ofInt 16 (((s.reg ra).toNat : Int) - (ext.toNat : Int))) s t) ∧
    (∃ t, exec (.cmpReg ra) s = .next t ∧ DifferenceFlags (s.reg ra) (s.reg .r7) s t ∧ NoResult 1 (s.pc + 2#16) s t) ∧
    (∃ t, exec (.cmpImm ra ext) s = .next t ∧ DifferenceFlags (s.reg ra) ext s t ∧ NoResult 1 (s.pc + 4#16) s t)

/-- R163, R164, R165: AND, OR and XOR, their encodings, results and flags. B of the register forms is decision D3 (log entry 20), PC moves by
D1, the budget check is D17 and D37 (log entry 21). -/
def Obligations.LogicIsBitwiseAndClearsCarryAndOverflow : Prop :=
  ∀ (rd ra : Reg) (ext : Word) (s : State),
    (IsWords 0x4010 rd ra ext (.andReg rd ra) ∧ IsWords 0x4014 rd ra ext (.andImm rd ra ext) ∧
        IsWords 0x4018 rd ra ext (.orReg rd ra) ∧ IsWords 0x401C rd ra ext (.orImm rd ra ext) ∧
        IsWords 0x4020 rd ra ext (.xorReg rd ra) ∧ IsWords 0x4024 rd ra ext (.xorImm rd ra ext)) ∧
      (∃ t, exec (.andReg rd ra) s = .next t ∧ MoveResult 1 1 rd (s.reg ra &&& s.reg .r2) s t) ∧
      (∃ t, exec (.andImm rd ra ext) s = .next t ∧ MoveResult 2 1 rd (s.reg ra &&& ext) s t) ∧
      (∃ t, exec (.orReg rd ra) s = .next t ∧ MoveResult 1 1 rd (s.reg ra ||| s.reg .r3) s t) ∧
      (∃ t, exec (.orImm rd ra ext) s = .next t ∧ MoveResult 2 1 rd (s.reg ra ||| ext) s t) ∧
      (∃ t, exec (.xorReg rd ra) s = .next t ∧ MoveResult 1 1 rd (s.reg ra ^^^ s.reg .r4) s t) ∧
      (∃ t, exec (.xorImm rd ra ext) s = .next t ∧ MoveResult 2 1 rd (s.reg ra ^^^ ext) s t)

/-- R166: SHL by `B[3:0]`, its encodings; C is the last bit to leave at bit 15 (decision D41), unchanged for a count of 0. -/
def Obligations.ShlShiftsLeftByFourBitsOfB : Prop :=
  ∀ (rd ra : Reg) (ext : Word) (s : State),
    (IsWords 0x4028 rd ra ext (.shlReg rd ra) ∧ IsWords 0x402C rd ra ext (.shlImm rd ra ext)) ∧
    (∃ t, exec (.shlReg rd ra) s = .next t ∧
      RegResult 1 1 rd (s.reg ra <<< ((s.reg .r5).toNat % 16)) s t ∧
      FlagsOf (s.reg ra <<< ((s.reg .r5).toNat % 16))
        (shiftedOut ((s.reg .r5).toNat % 16) ((s.reg ra).getLsbD (16 - (s.reg .r5).toNat % 16)) s) false s t) ∧
    (∃ t, exec (.shlImm rd ra ext) s = .next t ∧
      RegResult 2 1 rd (s.reg ra <<< (ext.toNat % 16)) s t ∧
      FlagsOf (s.reg ra <<< (ext.toNat % 16))
        (shiftedOut (ext.toNat % 16) ((s.reg ra).getLsbD (16 - ext.toNat % 16)) s) false s t)

/-- R167: SHR, its encodings; it is arithmetic; C is the last bit to leave at bit 0 (decision D41), unchanged for a count of 0. -/
def Obligations.ShrShiftsRightArithmetically : Prop :=
  ∀ (rd ra : Reg) (ext : Word) (s : State),
    (IsWords 0x4030 rd ra ext (.shrReg rd ra) ∧ IsWords 0x4034 rd ra ext (.shrImm rd ra ext)) ∧
    (∃ t, exec (.shrReg rd ra) s = .next t ∧
      RegResult 1 1 rd ((s.reg ra).sshiftRight ((s.reg .r6).toNat % 16)) s t ∧
      FlagsOf ((s.reg ra).sshiftRight ((s.reg .r6).toNat % 16))
        (shiftedOut ((s.reg .r6).toNat % 16) ((s.reg ra).getLsbD ((s.reg .r6).toNat % 16 - 1)) s) false s t) ∧
    (∃ t, exec (.shrImm rd ra ext) s = .next t ∧
      RegResult 2 1 rd ((s.reg ra).sshiftRight (ext.toNat % 16)) s t ∧
      FlagsOf ((s.reg ra).sshiftRight (ext.toNat % 16))
        (shiftedOut (ext.toNat % 16) ((s.reg ra).getLsbD (ext.toNat % 16 - 1)) s) false s t)

/-! ## Math helpers. In the register forms B is the register R121 names (decision D3). -/

/-- R181, R182: MUL is the low half of the product and MULH bits 31..16 of the signed 32-bit product; FLAGS stay. B of
the register forms is decision D3 (log entry 20), the signed reading two's complement (log entry 19), PC moves by D1, the budget check is D17 and
D37 (log entry 21). -/
def Obligations.MulAndMulhAreTheProductHalves : Prop :=
  ∀ (rd ra : Reg) (ext : Word) (s : State),
    (IsWords 0x5000 rd ra ext (.mulReg rd ra) ∧ IsWords 0x5004 rd ra ext (.mulImm rd ra ext) ∧
        IsWords 0x5008 rd ra ext (.mulhReg rd ra) ∧ IsWords 0x500C rd ra ext (.mulhImm rd ra ext)) ∧
      (∃ t, exec (.mulReg rd ra) s = .next t ∧ QuietResult 1 2 rd (s.reg ra * s.reg .r0) s t) ∧
      (∃ t, exec (.mulImm rd ra ext) s = .next t ∧ QuietResult 2 2 rd (s.reg ra * ext) s t) ∧
      (∃ t, exec (.mulhReg rd ra) s = .next t ∧
        QuietResult 1 2 rd (((s.reg ra).signExtend 32 * (s.reg .r1).signExtend 32).extractLsb' 16 16) s t) ∧
      (∃ t, exec (.mulhImm rd ra ext) s = .next t ∧
        QuietResult 2 2 rd (((s.reg ra).signExtend 32 * ext.signExtend 32).extractLsb' 16 16) s t)

/-- R183, R184: unsigned quotient and remainder, both 0 for a zero divisor, at 3 cycles in every case; FLAGS stay and nothing faults.
B of the register forms is decision D3 (log entry 20), PC moves by D1, the budget check is D17 and D37 (log entry 21). -/
def Obligations.DivAndModAreUnsignedAndZeroForZero : Prop :=
  ∀ (rd ra : Reg) (ext : Word) (s : State),
    (IsWords 0x5010 rd ra ext (.divReg rd ra) ∧ IsWords 0x5014 rd ra ext (.divImm rd ra ext) ∧
        IsWords 0x5018 rd ra ext (.modReg rd ra) ∧ IsWords 0x501C rd ra ext (.modImm rd ra ext)) ∧
      (∃ t v, exec (.divReg rd ra) s = .next t ∧ QuietResult 1 3 rd v s t ∧
        v.toNat = if (s.reg .r2).toNat = 0 then 0 else (s.reg ra).toNat / (s.reg .r2).toNat) ∧
      (∃ t v, exec (.divImm rd ra ext) s = .next t ∧ QuietResult 2 3 rd v s t ∧
        v.toNat = if ext.toNat = 0 then 0 else (s.reg ra).toNat / ext.toNat) ∧
      (∃ t v, exec (.modReg rd ra) s = .next t ∧ QuietResult 1 3 rd v s t ∧
        v.toNat = if (s.reg .r3).toNat = 0 then 0 else (s.reg ra).toNat % (s.reg .r3).toNat) ∧
      (∃ t v, exec (.modImm rd ra ext) s = .next t ∧ QuietResult 2 3 rd v s t ∧
        v.toNat = if ext.toNat = 0 then 0 else (s.reg ra).toNat % ext.toNat)

/-- R185, R186: QADD and QSUB, their encodings; they clamp the exact signed result to -32768..32767 (operands signed: decision D28). -/
def Obligations.QaddAndQsubClamp : Prop :=
  ∀ (rd ra : Reg) (ext : Word) (s : State),
    (IsWords 0x5020 rd ra ext (.qaddReg rd ra) ∧ IsWords 0x5024 rd ra ext (.qaddImm rd ra ext) ∧
      IsWords 0x5028 rd ra ext (.qsubReg rd ra) ∧ IsWords 0x502C rd ra ext (.qsubImm rd ra ext)) ∧
    (∃ t v, exec (.qaddReg rd ra) s = .next t ∧ MoveResult 1 1 rd v s t ∧
      v.toInt = max (-32768) (min 32767 ((s.reg ra).toInt + (s.reg .r4).toInt))) ∧
    (∃ t v, exec (.qaddImm rd ra ext) s = .next t ∧ MoveResult 2 1 rd v s t ∧
      v.toInt = max (-32768) (min 32767 ((s.reg ra).toInt + ext.toInt))) ∧
    (∃ t v, exec (.qsubReg rd ra) s = .next t ∧ MoveResult 1 1 rd v s t ∧
      v.toInt = max (-32768) (min 32767 ((s.reg ra).toInt - (s.reg .r5).toInt))) ∧
    (∃ t v, exec (.qsubImm rd ra ext) s = .next t ∧ MoveResult 2 1 rd v s t ∧
      v.toInt = max (-32768) (min 32767 ((s.reg ra).toInt - ext.toInt)))

/-- R187: SCV, its encoding; it shifts left with clamping or right arithmetically, by bit 15 of its control word; non-zero bits 14..4 are FK_ILLEGAL at base cost 1
(decisions D25, D28). -/
def Obligations.ScvShiftsWithSaturation : Prop :=
  ∀ (rd ra : Reg) (ext : Word) (s : State),
    (ScvLegal ext → IsWords 0x5034 rd ra ext (.scv rd ra ext)) ∧
    (ScvLegal ext → ∃ t v, exec (.scv rd ra ext) s = .next t ∧ MoveResult 2 1 rd v s t ∧
      (ext.toNat < 0x8000 → v.toInt = max (-32768) (min 32767 ((s.reg ra).toInt * 2 ^ (ext.toNat % 16)))) ∧
      (0x8000 ≤ ext.toNat → v = (s.reg ra).sshiftRight (ext.toNat % 16))) ∧
    (¬ ScvLegal ext → ∃ t, exec (.scv rd ra ext) s = .next t ∧ FaultTaken .illegal 1 s t)

/-! ## Branch and jump -/

/-- R200, R202: the six branches' encodings and conditions, the target, and 2 cycles taken or 1 not (FLAGS unwritten: decision D24; the target in bytes: D1). -/
def Obligations.BranchesTestTheirConditions : Prop :=
  ∀ (ext : Word) (s : State),
    (IsWords 0x6005 .r0 .r0 ext (.beq ext) ∧ IsWords 0x600D .r0 .r0 ext (.bne ext) ∧ IsWords 0x6015 .r0 .r0 ext (.blt ext) ∧
        IsWords 0x601D .r0 .r0 ext (.ble ext) ∧ IsWords 0x6025 .r0 .r0 ext (.bgt ext) ∧ IsWords 0x602D .r0 .r0 ext (.bge ext)) ∧
      (∃ t, exec (.beq ext) s = .next t ∧ BranchResult (s.flag .z = true) ext s t) ∧
      (∃ t, exec (.bne ext) s = .next t ∧ BranchResult (s.flag .z = false) ext s t) ∧
      (∃ t, exec (.blt ext) s = .next t ∧ BranchResult (s.flag .n ≠ s.flag .v) ext s t) ∧
      (∃ t, exec (.ble ext) s = .next t ∧ BranchResult (s.flag .z = true ∨ s.flag .n ≠ s.flag .v) ext s t) ∧
      (∃ t, exec (.bgt ext) s = .next t ∧ BranchResult (s.flag .z = false ∧ s.flag .n = s.flag .v) ext s t) ∧
      (∃ t, exec (.bge ext) s = .next t ∧ BranchResult (s.flag .n = s.flag .v) ext s t)

/-- R168: after a CMP the branches compare the operands, as signed numbers, also when the subtraction overflows (derived by the spec; two's
complement is log entry 19). -/
def Obligations.CompareThenBranchIsSignedOrder : Prop :=
  ∀ (ra : Reg) (b d : Word) (s : State), ∃ u, exec (.cmpImm ra b) s = .next u ∧
    (∃ t, exec (.beq d) u = .next t ∧ t.pc = if s.reg ra = b then s.pc + 8#16 + d else s.pc + 8#16) ∧
    (∃ t, exec (.bne d) u = .next t ∧ t.pc = if s.reg ra ≠ b then s.pc + 8#16 + d else s.pc + 8#16) ∧
    (∃ t, exec (.blt d) u = .next t ∧ t.pc = if (s.reg ra).toInt < b.toInt then s.pc + 8#16 + d else s.pc + 8#16) ∧
    (∃ t, exec (.ble d) u = .next t ∧ t.pc = if (s.reg ra).toInt ≤ b.toInt then s.pc + 8#16 + d else s.pc + 8#16) ∧
    (∃ t, exec (.bgt d) u = .next t ∧ t.pc = if b.toInt < (s.reg ra).toInt then s.pc + 8#16 + d else s.pc + 8#16) ∧
    (∃ t, exec (.bge d) u = .next t ∧ t.pc = if b.toInt ≤ (s.reg ra).toInt then s.pc + 8#16 + d else s.pc + 8#16)

/-- R203: JMP, its encoding, its target whatever that is (decision D5), and its cost. The target is decision D1, FLAGS unwritten D24, the budget
check D17 and D37 (log entry 21). -/
def Obligations.JmpLoadsTheTarget : Prop :=
  ∀ (ext : Word) (s : State), IsWords 0x6035 .r0 .r0 ext (.jmp ext) ∧
    ∃ t, exec (.jmp ext) s = .next t ∧ JumpResult 2 (s.pc + 4#16 + ext) s t

/-- R204: CALL pushes the address after itself and jumps; a push that cannot be made is its fault. It rests on decisions D1, D6 (a fault
changes nothing else), D24, D29 (base 2), D17 and D37 (log entry 21), and on log entries 18 (which byte of the pushed word lies lower) and 7 and
12 (a push into the MMIO region). -/
def Obligations.CallPushesTheReturnAddress : Prop :=
  ∀ (ext : Word) (s : State), IsWords 0x603D .r0 .r0 ext (.call ext) ∧
    (WriteLegal (s.sp - 2#16) → ∃ t, exec (.call ext) s = .next t ∧ Ended 2 (s.pc + 4#16 + ext) (s.sp - 2#16) s t ∧ SameRegs s t ∧
      t.flags = s.flags ∧ DataWritten (s.sp - 2#16) (s.pc + 4#16) s t) ∧
    (¬ WriteLegal (s.sp - 2#16) → ∃ t, exec (.call ext) s = .next t ∧ FaultTaken (accessFault (s.sp - 2#16)) 2 s t)

/-- R209: RET pops its target; a pop that cannot be made is its fault. It rests on decisions D6, D24, D29 (base 2), D17 and D37 (log entry 21),
and on log entries 18 (byte order), 6 and 8 (what a device or DIAG gives). -/
def Obligations.RetPopsItsTarget : Prop :=
  ∀ (ext : Word) (s : State), IsWords 0x6038 .r0 .r0 ext .ret ∧
    (ReadLegal s.sp → ∃ t v, exec .ret s = .next t ∧ Ended 2 v (s.sp + 2#16) s t ∧ SameRegs s t ∧ t.flags = s.flags ∧
      DataRead s.diag s.sp v s t) ∧
    (¬ ReadLegal s.sp → ∃ t, exec .ret s = .next t ∧ FaultTaken (accessFault s.sp) 2 s t)

/-! ## Stack -/

/-- R221, R222: PUSH and POP, their encodings, and the faults of their accesses (FLAGS unwritten: decision D24; SP kept by a fault: D6; base 1:
D29). Which byte of the word lies lower is log entry 18 (PRESUMED); a push into the MMIO region is log entries 7 and 12, what a device or DIAG gives
to a POP log entries 6 and 8. -/
def Obligations.PushAndPopMoveOneWord : Prop :=
  ∀ (rd : Reg) (ext : Word) (s : State),
    (IsWords 0x7000 rd .r0 ext (.push rd) ∧ IsWords 0x7008 rd .r0 ext (.pop rd)) ∧
    (WriteLegal (s.sp - 2#16) → ∃ t, exec (.push rd) s = .next t ∧ Ended 1 (s.pc + 2#16) (s.sp - 2#16) s t ∧ SameRegs s t ∧
      t.flags = s.flags ∧ DataWritten (s.sp - 2#16) (s.reg rd) s t) ∧
    (¬ WriteLegal (s.sp - 2#16) → ∃ t, exec (.push rd) s = .next t ∧ FaultTaken (accessFault (s.sp - 2#16)) 1 s t) ∧
    (ReadLegal s.sp → ∃ t v, exec (.pop rd) s = .next t ∧ Ended 1 (s.pc + 2#16) (s.sp + 2#16) s t ∧ Wrote rd v s t ∧
      t.flags = s.flags ∧ DataRead s.diag s.sp v s t) ∧
    (¬ ReadLegal s.sp → ∃ t, exec (.pop rd) s = .next t ∧ FaultTaken (accessFault s.sp) 1 s t)

/-! ## MMIO and atomic MMIO -/

/-- R231: IN reads the device at an even address of the MMIO region, and faults everywhere else without reading. The kinds of fault and their
order are decisions D9 and D7, base 4 D29, PC D1, the budget check D17 and D37 (log entry 21); what the device answers is log entry 6. -/
def Obligations.InReadsTheDevice : Prop :=
  ∀ (rd : Reg) (ext : Word) (s : State), IsWords 0x8003 rd .r0 ext (.inp rd ext) ∧
    (MmioLegal ext → ∃ t v, exec (.inp rd ext) s = .next t ∧ Ended 4 (s.pc + 4#16) s.sp s t ∧ Wrote rd v s t ∧
      FlagsOf v false false s t ∧ DataRead s.diag ext v s t) ∧
    (¬ MmioLegal ext → ∃ t, exec (.inp rd ext) s = .next t ∧ FaultTaken (mmioAccessFault ext) 4 s t)

/-- R232: OUT writes the device or, where the voter inhibits the write, latches INHIBIT; both retire at 4 cycles. The voter is
decision D33 (log entry 7); the faults are decisions D9, D7 and D29, PC is D1, the budget check D17 and D37 (log entry 21); what reaches the device
is log entry 12. -/
def Obligations.OutWritesTheDeviceOrLatchesInhibit : Prop :=
  ∀ (rd : Reg) (ext : Word) (s : State), IsWords 0x800B rd .r0 ext (.out rd ext) ∧
    (MmioLegal ext → ∃ t, exec (.out rd ext) s = .next t ∧ Ended 4 (s.pc + 4#16) s.sp s t ∧ SameRegs s t ∧ t.flags = s.flags ∧
      DeviceWritten ext (s.reg rd) s t) ∧
    (¬ MmioLegal ext → ∃ t, exec (.out rd ext) s = .next t ∧ FaultTaken (mmioAccessFault ext) 4 s t)

/-- R241, R242: BSET and BCLR read the device word and write it back with the bit `R[RD][3:0]` set or cleared; the write half alone is gated.
Read and write as one step are log entry 12, the voter is D33 (log entry 7), what the device answers is log entry 6, the faults are decisions D9, D7 and
D29, PC is D1, the budget check D17 and D37 (log entry 21). -/
def Obligations.BsetAndBclrModifyOneBit : Prop :=
  ∀ (rd : Reg) (ext : Word) (s : State),
    (IsWords 0x9003 rd .r0 ext (.bset rd ext) ∧ IsWords 0x900B rd .r0 ext (.bclr rd ext)) ∧
    (MmioLegal ext →
      (∃ t v, exec (.bset rd ext) s = .next t ∧ Ended 4 (s.pc + 4#16) s.sp s t ∧ SameRegs s t ∧ t.flags = s.flags ∧
        ReadThenWritten ext v (v ||| (1#16 <<< ((s.reg rd).toNat % 16))) s t) ∧
      (∃ t v, exec (.bclr rd ext) s = .next t ∧ Ended 4 (s.pc + 4#16) s.sp s t ∧ SameRegs s t ∧ t.flags = s.flags ∧
        ReadThenWritten ext v (v &&& ~~~(1#16 <<< ((s.reg rd).toNat % 16))) s t)) ∧
    (¬ MmioLegal ext →
      (∃ t, exec (.bset rd ext) s = .next t ∧ FaultTaken (mmioAccessFault ext) 4 s t) ∧
      (∃ t, exec (.bclr rd ext) s = .next t ∧ FaultTaken (mmioAccessFault ext) 4 s t))

/-- R243: BTEST, its encoding; it sets Z alone, to 1 when the tested bit is 0 (decision D23), and asks the voter nothing. Its faults are decisions
D9, D7 and D29; what the device answers is log entry 6. -/
def Obligations.BtestSetsZeroFlagAlone : Prop :=
  ∀ (rd : Reg) (ext : Word) (s : State), IsWords 0x9013 rd .r0 ext (.btest rd ext) ∧
    (MmioLegal ext → ∃ t v, exec (.btest rd ext) s = .next t ∧ Ended 4 (s.pc + 4#16) s.sp s t ∧ SameRegs s t ∧
      DataRead s.diag ext v s t ∧ t.flag .z = !v.getLsbD ((s.reg rd).toNat % 16) ∧
      ∀ j, 1 ≤ j → j < 16 → t.flags.getLsbD j = s.flags.getLsbD j) ∧
    (¬ MmioLegal ext → ∃ t, exec (.btest rd ext) s = .next t ∧ FaultTaken (mmioAccessFault ext) 4 s t)

/-! ## Events -/

/-- R250: EWAIT, its encoding; with an empty queue it changes nothing at all; else it advances at 1 cycle and leaves the queue (decisions D18, D24). -/
def Obligations.EwaitStallsOnlyOnAnEmptyQueue : Prop :=
  ∀ (ext : Word) (s : State), IsWords 0xA000 .r0 .r0 ext .ewait ∧ (s.evq = [] → exec .ewait s = .next s) ∧
    (s.evq ≠ [] → ∃ t, exec .ewait s = .next t ∧ JumpResult 1 (s.pc + 2#16) s t)

/-- R251: EGET, its encoding; it gives the oldest event's id, or 0, and removes it (FLAGS unwritten: decision D24;
EVP: log entry 9). -/
def Obligations.EgetTakesTheOldestEvent : Prop :=
  ∀ (rd : Reg) (ext : Word) (s : State), IsWords 0xA008 rd .r0 ext (.eget rd) ∧ ∃ t, exec (.eget rd) s = .next t ∧
    Wrote rd (match s.evq with | [] => 0#16 | id :: _ => id.setWidth 16) s t ∧ t.evq = s.evq.tail ∧
    (s.evq = [] → t.evp = s.evp) ∧ (s.evq ≠ [] → t.evp = evpOf s.evq.tail) ∧ t.qovf = s.qovf ∧ SameContext s t ∧ SameFixed s t ∧
    SameMem s t ∧ SameDevices s t ∧ t.sp = s.sp ∧ t.pc = s.pc + 2#16 ∧ t.flags = s.flags ∧ Retired 1 s t

/-- R252: ERET, its encoding; in handler context it pops CAUSE, FLAGS bits 5..0 and PC, in this order, and leaves one level of handler context (decisions D6, D12,
D14, D29); outside it, or with a word it cannot read, it faults with nothing changed. A popped word is two bytes of memory (their order: log
entry 18, PRESUMED), a device's answer (log entry 6) or what DIAG shows (log entry 8); the order of the context list is log entry 13. -/
def Obligations.EretPopsTheFrame : Prop :=
  ∀ (ext : Word) (s : State), IsWords 0xA010 .r0 .r0 ext .eret ∧
    (∀ cls ctx, s.hctx = cls :: ctx → ReadLegal s.sp → ReadLegal (s.sp + 2#16) → ReadLegal (s.sp + 4#16) →
      ∃ t u v w, exec .eret s = .next t ∧ DataRead s.diag s.sp t.cause s u ∧ DataRead s.diag (s.sp + 2#16) w u v ∧
        DataRead s.diag (s.sp + 4#16) t.pc v t ∧ t.flags = w &&& 0x003F#16 ∧ t.sp = s.sp + 6#16 ∧ t.hctx = ctx ∧ SameRegs s t ∧
        SameQueue s t ∧ SameFixed s t ∧ Retired 4 s t) ∧
    (s.hctx = [] → ∃ t, exec .eret s = .next t ∧ FaultTaken .eretContext 4 s t) ∧
    (s.hctx ≠ [] → ¬ ReadLegal s.sp → ∃ t, exec .eret s = .next t ∧ FaultTaken (accessFault s.sp) 4 s t) ∧
    (s.hctx ≠ [] → ReadLegal s.sp → ¬ ReadLegal (s.sp + 2#16) →
      ∃ t, exec .eret s = .next t ∧ FaultTaken (accessFault (s.sp + 2#16)) 4 s t) ∧
    (s.hctx ≠ [] → ReadLegal s.sp → ReadLegal (s.sp + 2#16) → ¬ ReadLegal (s.sp + 4#16) →
      ∃ t, exec .eret s = .next t ∧ FaultTaken (accessFault (s.sp + 4#16)) 4 s t)

/-! ## Dispatch, events, tick, budget -/

/-- R277: ERET undoes exactly the level that a TRAP with its stack in RAM entered: PC, FLAGS, SP and the handler context are those of the code
after the TRAP; R0 is not restored, and CAUSE is the one the TRAP latched. -/
def Obligations.EretUndoesTheTrapDispatch : Prop :=
  ∀ (rd : Reg) (s : State), s.reservedFlagsZero → s.sp.toNat % 2 = 0 → 0x4006 ≤ s.sp.toNat → s.sp.toNat ≤ 0xE000 →
    ∃ u t, exec (.trap rd) s = .next u ∧ exec .eret u = .next t ∧ t.pc = s.pc + 2#16 ∧ t.flags = s.flags ∧ t.sp = s.sp ∧
      t.hctx = s.hctx ∧ SameRegsBut .r0 s t ∧ t.reg .r0 = ((s.reg rd).setWidth 8).setWidth 16 ∧ t.cause = u.cause

/-- R280: raising a fault of any kind but FK_BUDGET, from any state: the record, the dispatch at cost 5 plus base, and the double
fault (R282). What the record holds afterwards is said for every kind, so also for FK_BUDGET, which is recorded alike (R290; its effect on the
core is BudgetFaultIsNotDispatched). The codes are decision D10 (log entry 5); the fault PC is D11, the handler context D12, the double fault D13,
a failed push D16, FLAGS.F D15, the vector D2, the base cost D29, the budget check D17 and D37 (log entry 21); that a double fault is recorded
once, with the first kind, is log entry 14; one counter for each kind is log entry 31. The single bytes of the frame and of the vector word are
log entry 18 (PRESUMED), pushes into the MMIO region log entries 7 and 12. -/
def Obligations.RaisingAFaultRecordsAndDispatches : Prop :=
  ∀ (k : FaultKind) (base : Nat) (s : State), (k ≠ .budget → FaultTaken k base s (raiseFault k base s)) ∧
    Recorded k s.pc s.tick s.diag (s.diag.record k s.pc s.tick)

/-- R285: with FLAGS.I = 1 and an event queued, the step is the EVENT dispatch of the head, which leaves the queue; if a push cannot be made, the
fault of that push is raised and the queue stays. The resume PC is decision D11, the vector D2, the failed push D16, the order at the boundary D21, the
budget check D17 and D37 (log entry 21); EVP is log entry 9 (D31); that the dispatch is not counted as an instruction is log entry 16. The single
bytes of the frame and of the vector word are log entry 18 (PRESUMED), pushes into the MMIO region log entries 7 and 12. -/
def Obligations.EventIsDispatchedAtTheBoundary : Prop :=
  ∀ (s : State) (id : Byte) (rest : List Byte), s.pendingInputs = [] → s.runState = .run → s.qovf = false → s.flag .i = true →
    s.evq = id :: rest →
    (PushesLegal s.sp → ∃ t, step s = .next t ∧ Dispatched .event id s.pc (s.setEnv s.env.tail) t ∧ t.evq = rest ∧ t.evp = evpOf rest ∧
      t.qovf = false ∧ Charged 5 .run s.diag s t) ∧
    (¬ PushesLegal s.sp → ∃ t, step s = .next t ∧ FaultTaken (pushFault s.sp) 0 (s.setEnv s.env.tail) t)

/-- R284, R262: an event is appended at the tail; a fifth is lost and latches the overflow, which the next step of a running core takes as a fault
before any event and any instruction (decisions D20, D21). That EVP follows the queue is decision D31 (log entry 9). -/
def Obligations.QueueOverflowIsTakenFirst : Prop :=
  ∀ (id : Byte) (s : State),
    (s.evq.length < 4 → enqueue id s = { s with evq := s.evq ++ [id], evp := evpOf (s.evq ++ [id]) }) ∧
    (4 ≤ s.evq.length → enqueue id s = { s with qovf := true }) ∧
    (s.pendingInputs = [] → s.runState = .run → s.qovf = true →
      ∃ t, step s = .next t ∧ FaultTaken .evqOverflow 0 { s with qovf := false, env := s.env.tail } t)

/-- R292, R291: what a tick boundary does in each run state (the recovery from a budget halt is decision D17), and that a step with the tick
pending, in any run state, is the step after that boundary (R262 gives the order, decisions D19 and D21). The order of the vector word's two bytes is log entry 18
(PRESUMED). -/
def Obligations.TickBoundaryByRunState : Prop :=
  ∀ s : State,
    (s.runState = .run → tickBoundary s = { s with tick := 0x0000#16, brecov := false }) ∧
    (s.runState = .haltTick → tickBoundary s = { s with tick := 0x0000#16, brecov := false, runState := .run }) ∧
    (s.runState = .haltBudget →
      tickBoundary s = { s with tick := 0x0000#16, pc := handlerOf .fault s, brecov := true, runState := .run }) ∧
    (s.runState = .haltPerm → tickBoundary s = { s with tick := 0x0000#16 }) ∧
    (s.pendingInputs = [.tick] → step s = step (tickBoundary s).withNoInput)

/-- R320: the reset input gives every register and every hidden bit its reset value, keeps ROM, and leaves the devices alone; DIAG and RAM are
any value, so nothing is said of them (decisions D35, D39; log entries 3 and 4); CAP's value is D30 (log entry 30). A step with the reset pending, in any run state, is the first step
from there. -/
def Obligations.ResetInputRestoresTheResetState : Prop :=
  ∀ s : State,
    resetInput s = { State.reset with diag := (resetInput s).diag, mem := (resetInput s).mem, bus := s.bus,
                                      draws := s.draws + 1, env := s.env } ∧
      (∀ x, x < 0x4000 → (resetInput s).mem.read x = s.mem.read x) ∧
      (s.pendingInputs = [.reset] → step s = step (resetInput s).withNoInput)

/-- R262: inputs pending together are applied reset first, then the tick, then the events in arrival order (decision D21, log entry 11); and a
step with inputs pending is the step with none from the state they were applied to. -/
def Obligations.InputsAreAppliedInOrder : Prop :=
  (∀ (s : State) (xs : List Input) (ids : List Byte), xs.filter Input.isEnqueue = ids.map Input.enqueue →
    (xs.filter Input.isReset = [.reset] → xs.filter Input.isTick = [.tick] →
      applyInputs xs s = ids.foldl (fun u id => enqueue id u) (tickBoundary (resetInput s))) ∧
    (xs.filter Input.isReset = [.reset] → xs.filter Input.isTick = [] →
      applyInputs xs s = ids.foldl (fun u id => enqueue id u) (resetInput s)) ∧
    (xs.filter Input.isReset = [] → xs.filter Input.isTick = [.tick] →
      applyInputs xs s = ids.foldl (fun u id => enqueue id u) (tickBoundary s)) ∧
    (xs.filter Input.isReset = [] → xs.filter Input.isTick = [] → applyInputs xs s = ids.foldl (fun u id => enqueue id u) s)) ∧
    ∀ s : State, step s = step (applyInputs s.pendingInputs s).withNoInput

/-- R290: cycles added past the budget halt the core and are recorded at the PC and the TICK reached, without any dispatch: no CAUSE, no
frame, no flag, no register (decisions D17, D37; the code is D10, log entry 5; the kind's own counter log entry 31). R46, R262 step 4: what
counting an instruction, as every retirement does, makes of the record. -/
def Obligations.BudgetFaultIsNotDispatched : Prop :=
  ∀ (n : Nat) (s : State), Charged n s.runState s.diag s (charge n s) ∧
    (640 ≤ (charge n s).tick.toNat → Recorded .budget s.pc (charge n s).tick s.diag (charge n s).diag) ∧
    Retired n s (retire n s) ∧ InstrCounted s.diag s.diag.countInstr ∧ SameRegs s (charge n s) ∧ (charge n s).pc = s.pc ∧
    (charge n s).sp = s.sp ∧ (charge n s).flags = s.flags ∧ SameCore s (charge n s) ∧ SameMem s (charge n s) ∧
    SameDevices s (charge n s)
end

