-- ==== Sys2Proof/Laws/Flags.lean ====
section
/-! SUPPORT. The flags as bits: what each write of FLAGS leaves in each bit. -/

namespace Sys2Proof.Machine

theorem Flag.bit_lt (k : Flag) : k.bit < 16 := by cases k <;> decide

theorem Flag.bit_inj {k q : Flag} (h : k.bit = q.bit) : k = q := by
  cases k <;> cases q <;> first | rfl | (exact absurd h (by decide))

theorem getLsbD_one_shift (k j : Nat) (hk : k < 16) : (1#16 <<< k).getLsbD j = decide (j = k) := by
  rw [BitVec.getLsbD_shiftLeft]
  by_cases h : j = k
  · subst h; simp [hk]
  · by_cases hlt : j < k
    · simp [hlt, h]
    · have hne : j - k ≠ 0 := by omega
      rw [BitVec.getLsbD_one]
      simp [h, hne]

/-- A flag write changes its own bit and no other. -/
theorem getLsbD_putFlag (k : Flag) (b : Bool) (w : Word) (j : Nat) (hj : j < 16) :
    (putFlag k b w).getLsbD j = if j = k.bit then b else w.getLsbD j := by
  unfold putFlag
  cases b
  · simp only [Bool.false_eq_true, if_false, BitVec.getLsbD_and, BitVec.getLsbD_not, getLsbD_one_shift _ _ k.bit_lt]
    by_cases h : j = k.bit <;> simp [h, hj]
  · simp only [if_true, BitVec.getLsbD_or, getLsbD_one_shift _ _ k.bit_lt]
    by_cases h : j = k.bit <;> simp [h]

@[simp] theorem getFlag_putFlag_same (k : Flag) (b : Bool) (w : Word) : getFlag k (putFlag k b w) = b := by
  simp [getFlag, getLsbD_putFlag k b w k.bit k.bit_lt]

theorem getFlag_putFlag_other (k q : Flag) (b : Bool) (w : Word) (h : q ≠ k) :
    getFlag q (putFlag k b w) = getFlag q w := by
  have hb : q.bit ≠ k.bit := fun e => h (Flag.bit_inj e)
  simp [getFlag, getLsbD_putFlag k b w q.bit q.bit_lt, hb]

/-- The bits of a word whose four arithmetic flags are written. -/
theorem getLsbD_setZNCV (v : Word) (c o : Bool) (w : Word) (j : Nat) (hj : j < 16) :
    (setZNCV v c o w).getLsbD j =
      if j = 3 then o else if j = 2 then c else if j = 1 then v.getLsbD 15 else if j = 0 then v == 0#16 else w.getLsbD j := by
  simp only [setZNCV, setZN, getLsbD_putFlag _ _ _ _ hj]
  rfl

/-- The bits of FLAGS after a dispatch entry (R270 step 6). -/
theorem getLsbD_entryFlags (cls : DispatchClass) (w : Word) (j : Nat) (hj : j < 16) :
    (entryFlags cls w).getLsbD j =
      if j = 5 then (if cls = .fault then true else w.getLsbD 5) else if j = 4 then false else w.getLsbD j := by
  have hi : (putFlag .i false w).getLsbD j = if j = 4 then false else w.getLsbD j := getLsbD_putFlag _ _ _ _ hj
  have same : (if j = 4 then false else w.getLsbD j) =
      if j = 5 then w.getLsbD 5 else if j = 4 then false else w.getLsbD j := by
    by_cases h : j = 5
    · subst h; rfl
    · rw [if_neg h]
  cases cls with
  | trap => exact hi.trans same
  | event => exact hi.trans same
  | fault =>
    have hf : (putFlag .f true (putFlag .i false w)).getLsbD j =
        if j = 5 then true else (putFlag .i false w).getLsbD j := getLsbD_putFlag _ _ _ _ hj
    exact hf.trans (by rw [hi]; rfl)

/-- The bits of FLAGS after the pop of ERET (R252). -/
theorem getLsbD_poppedFlags (w : Word) (j : Nat) (hj : j < 16) :
    (poppedFlags w).getLsbD j = (w.getLsbD j && decide (j < 6)) := by
  unfold poppedFlags
  rw [BitVec.getLsbD_and]
  congr 1
  have key : ∀ n : Fin 16, (0x003F#16).getLsbD n.val = decide (n.val < 6) := by decide
  exact key ⟨j, hj⟩

end Sys2Proof.Machine
end

