-- ==== Sys2Proof/Laws/Memory.lean ====
section
/-! SUPPORT. The laws of memory: a read after a write, and the canonical form that every operation keeps. -/

namespace Sys2Proof.Machine

/-! ## Reading after writing -/

theorem Memory.read_erase_same (m : Memory) (a : Nat) : (m.erase a).read a = Memory.unlisted := by
  induction m with
  | nil => rfl
  | cons c m ih =>
    obtain ⟨k, b⟩ := c
    by_cases h : a = k
    · simp [Memory.erase, h]; rw [← h]; exact ih
    · simp [Memory.erase, Memory.read, h, ih]

theorem Memory.read_erase_other (m : Memory) (a x : Nat) (h : x ≠ a) : (m.erase a).read x = m.read x := by
  induction m with
  | nil => rfl
  | cons c m ih =>
    obtain ⟨k, b⟩ := c
    by_cases hk : a = k
    · have hx : x ≠ k := fun e => h (e.trans hk.symm)
      simp [Memory.erase, Memory.read, hk, hx]; rw [← hk]; exact ih
    · simp [Memory.erase, Memory.read, hk, ih]

theorem Memory.read_insert_same (m : Memory) (a : Nat) (v : Byte) : (m.insert a v).read a = v := by
  induction m with
  | nil => simp [Memory.insert, Memory.read]
  | cons c m ih =>
    obtain ⟨k, b⟩ := c
    simp only [Memory.insert]
    split
    · simp [Memory.read]
    · split
      · simp [Memory.read]
      · simp [Memory.read, *]

theorem Memory.read_insert_other (m : Memory) (a x : Nat) (v : Byte) (h : x ≠ a) :
    (m.insert a v).read x = m.read x := by
  induction m with
  | nil => simp [Memory.insert, Memory.read, h]
  | cons c m ih =>
    obtain ⟨k, b⟩ := c
    simp only [Memory.insert]
    split
    · next hk => subst hk; simp [Memory.read, h]
    · split
      · simp [Memory.read, h]
      · simp [Memory.read, ih]

/-- A read of the byte just written gives it. -/
@[simp] theorem Memory.read_write_same (m : Memory) (a : Nat) (v : Byte) : (m.write a v).read a = v := by
  unfold Memory.write
  split
  · next h => rw [h]; exact Memory.read_erase_same m a
  · exact Memory.read_insert_same m a v

/-- A write leaves every other byte alone. -/
theorem Memory.read_write_other (m : Memory) (a x : Nat) (v : Byte) (h : x ≠ a) : (m.write a v).read x = m.read x := by
  unfold Memory.write
  split
  · exact Memory.read_erase_other m a x h
  · exact Memory.read_insert_other m a x v h

/-- The two bytes of a word are its halves (R64). -/
theorem wordOf_halves (v : Word) : wordOf (hiByte v) (loByte v) = v := by
  apply BitVec.eq_of_getLsbD_eq
  intro i hi
  simp only [wordOf, hiByte, loByte, BitVec.getLsbD_append, BitVec.getLsbD_extractLsb']
  by_cases h : i < 8
  · simp [h]
  · have : i - 8 < 8 := by omega
    simp [h, this]; congr 1; omega

/-- A word read where it was written. -/
@[simp] theorem Memory.readWord_writeWord_same (m : Memory) (a v : Word) : (m.writeWord a v).readWord a = v := by
  have h : a.toNat ≠ a.toNat + 1 := by omega
  simp [Memory.readWord, Memory.writeWord, Memory.read_write_other _ _ _ _ h, wordOf_halves]

/-- A word write leaves every byte outside its two bytes alone. -/
theorem Memory.read_writeWord_other (m : Memory) (a v : Word) (x : Nat) (h0 : x ≠ a.toNat) (h1 : x ≠ a.toNat + 1) :
    (m.writeWord a v).read x = m.read x := by
  simp [Memory.writeWord, Memory.read_write_other _ _ _ _ h0, Memory.read_write_other _ _ _ _ h1]

/-- The first byte of a word write (R64). -/
theorem Memory.read_writeWord_hi (m : Memory) (a v : Word) : (m.writeWord a v).read a.toNat = hiByte v := by
  have h : a.toNat ≠ a.toNat + 1 := by omega
  simp [Memory.writeWord, Memory.read_write_other _ _ _ _ h]

/-- The second byte of a word write (R64). -/
theorem Memory.read_writeWord_lo (m : Memory) (a v : Word) : (m.writeWord a v).read (a.toNat + 1) = loByte v := by
  simp [Memory.writeWord]

/-- A word that shares no byte with a word write reads as before. -/
theorem Memory.readWord_writeWord_other (m : Memory) (a b v : Word) (h : a.toNat + 2 ≤ b.toNat ∨ b.toNat + 2 ≤ a.toNat) :
    (m.writeWord a v).readWord b = m.readWord b := by
  simp only [Memory.readWord]
  rw [Memory.read_writeWord_other _ _ _ _ (by omega) (by omega), Memory.read_writeWord_other _ _ _ _ (by omega) (by omega)]

/-! ## The canonical form -/

theorem Memory.wfFrom_mono {lo lo' : Option Nat} {m : Memory} (h : Memory.wfFrom lo m = true)
    (hl : ∀ l', lo' = some l' → ∃ l, lo = some l ∧ l' ≤ l) : Memory.wfFrom lo' m = true := by
  cases m with
  | nil => rfl
  | cons c m =>
    obtain ⟨k, b⟩ := c
    simp only [Memory.wfFrom, Bool.and_eq_true] at h ⊢
    refine ⟨⟨?_, h.1.2⟩, h.2⟩
    cases lo' with
    | none => rfl
    | some l' =>
      obtain ⟨l, rfl, hle⟩ := hl l' rfl
      have := h.1.1
      simp only [decide_eq_true_eq] at this ⊢
      omega

theorem Memory.wfFrom_tail {lo : Option Nat} {k : Nat} {b : Byte} {m : Memory}
    (h : Memory.wfFrom lo ((k, b) :: m) = true) : Memory.wfFrom lo m = true := by
  have hk := h
  simp only [Memory.wfFrom, Bool.and_eq_true] at hk
  refine Memory.wfFrom_mono hk.2 ?_
  intro l' hl'
  subst hl'
  refine ⟨k, rfl, ?_⟩
  have := hk.1.1
  simp only [decide_eq_true_eq] at this
  omega

theorem Memory.erase_wf {lo : Option Nat} {m : Memory} (a : Nat) (h : Memory.wfFrom lo m = true) :
    Memory.wfFrom lo (m.erase a) = true := by
  induction m generalizing lo with
  | nil => rfl
  | cons c m ih =>
    obtain ⟨k, b⟩ := c
    simp only [Memory.erase]
    split
    · exact ih (Memory.wfFrom_tail h)
    · simp only [Memory.wfFrom, Bool.and_eq_true] at h ⊢
      exact ⟨h.1, ih h.2⟩

theorem Memory.insert_wf {lo : Option Nat} {m : Memory} (a : Nat) (v : Byte) (hv : v ≠ Memory.unlisted)
    (ha : ∀ l, lo = some l → l < a) (h : Memory.wfFrom lo m = true) : Memory.wfFrom lo (m.insert a v) = true := by
  induction m generalizing lo with
  | nil =>
    cases lo with
    | none => simp [Memory.insert, Memory.wfFrom, hv]
    | some l => simp [Memory.insert, Memory.wfFrom, hv, ha l rfl]
  | cons c m ih =>
    obtain ⟨k, b⟩ := c
    simp only [Memory.insert]
    split
    · next hk =>
      subst hk
      simp only [Memory.wfFrom, Bool.and_eq_true] at h ⊢
      exact ⟨⟨h.1.1, by simpa using hv⟩, h.2⟩
    · split
      · next hlt =>
        simp only [Memory.wfFrom, Bool.and_eq_true, decide_eq_true_eq] at h ⊢
        refine ⟨⟨?_, hv⟩, ⟨hlt, h.1.2⟩, h.2⟩
        cases lo with
        | none => rfl
        | some l => simp [ha l rfl]
      · simp only [Memory.wfFrom, Bool.and_eq_true] at h ⊢
        refine ⟨h.1, ih ?_ h.2⟩
        intro l hl
        cases hl
        omega

/-- A write keeps the canonical form. -/
theorem Memory.write_wf {m : Memory} (a : Nat) (v : Byte) (h : m.wf = true) : (m.write a v).wf = true := by
  unfold Memory.write Memory.wf at *
  split
  · exact Memory.erase_wf a h
  · next hv => exact Memory.insert_wf a v hv (by intro l hl; cases hl) h

/-- A word write keeps the canonical form. -/
theorem Memory.writeWord_wf {m : Memory} (a v : Word) (h : m.wf = true) : (m.writeWord a v).wf = true :=
  Memory.write_wf _ _ (Memory.write_wf _ _ h)

theorem Memory.filter_wf {lo : Option Nat} {m : Memory} (p : Host.Cell → Bool) (h : Memory.wfFrom lo m = true) :
    Memory.wfFrom lo (m.filter p) = true := by
  induction m generalizing lo with
  | nil => rfl
  | cons c m ih =>
    obtain ⟨k, b⟩ := c
    rw [List.filter_cons]
    split
    · simp only [Memory.wfFrom, Bool.and_eq_true] at h ⊢
      exact ⟨h.1, ih h.2⟩
    · exact ih (Memory.wfFrom_tail h)

/-- Keeping ROM alone keeps the canonical form. -/
theorem Memory.romPart_wf {m : Memory} (h : m.wf = true) : m.romPart.wf = true := Memory.filter_wf _ h

/-- Loading RAM keeps the canonical form. -/
theorem Memory.loadRam_wf {m : Memory} (cells : List Host.Cell) (h : m.wf = true) : (m.loadRam cells).wf = true := by
  unfold Memory.loadRam
  induction cells generalizing m with
  | nil => exact h
  | cons c cs ih =>
    rw [List.foldl_cons]
    apply ih
    split
    · exact Memory.write_wf _ _ h
    · exact h

/-- The ROM part reads as ROM does. -/
theorem Memory.read_romPart (m : Memory) (a : Nat) (h : a < 0x4000) : m.romPart.read a = m.read a := by
  unfold Memory.romPart
  induction m with
  | nil => rfl
  | cons c m ih =>
    obtain ⟨k, b⟩ := c
    rw [List.filter_cons]
    split
    · simp only [Memory.read]; rw [ih]
    · next hk =>
      have hne : a ≠ k := by intro e; subst e; simp [h] at hk
      simp [Memory.read, hne, ih]

/-- Loading RAM leaves ROM alone. -/
theorem Memory.read_loadRam_rom (m : Memory) (cells : List Host.Cell) (a : Nat) (h : a < 0x4000) :
    (m.loadRam cells).read a = m.read a := by
  unfold Memory.loadRam
  induction cells generalizing m with
  | nil => rfl
  | cons c cs ih =>
    rw [List.foldl_cons, ih]
    split
    · exact Memory.read_write_other _ _ _ _ (by omega)
    · rfl

end Sys2Proof.Machine
end

