-- ==== Sys2Proof/Laws/State.lean ====
section
/-! SUPPORT. One lemma per field and per update of the state, true by rfl. -/

namespace Sys2Proof.Machine

/-! ## `State.setReg` -/

@[simp] theorem State.setReg_regs (s : State) (r : Reg) (v : Word) : (s.setReg r v).regs = s.regs.set r v := rfl
@[simp] theorem State.setReg_pc (s : State) (r : Reg) (v : Word) : (s.setReg r v).pc = s.pc := rfl
@[simp] theorem State.setReg_sp (s : State) (r : Reg) (v : Word) : (s.setReg r v).sp = s.sp := rfl
@[simp] theorem State.setReg_flags (s : State) (r : Reg) (v : Word) : (s.setReg r v).flags = s.flags := rfl
@[simp] theorem State.setReg_tick (s : State) (r : Reg) (v : Word) : (s.setReg r v).tick = s.tick := rfl
@[simp] theorem State.setReg_cap (s : State) (r : Reg) (v : Word) : (s.setReg r v).cap = s.cap := rfl
@[simp] theorem State.setReg_cause (s : State) (r : Reg) (v : Word) : (s.setReg r v).cause = s.cause := rfl
@[simp] theorem State.setReg_evp (s : State) (r : Reg) (v : Word) : (s.setReg r v).evp = s.evp := rfl
@[simp] theorem State.setReg_evq (s : State) (r : Reg) (v : Word) : (s.setReg r v).evq = s.evq := rfl
@[simp] theorem State.setReg_qovf (s : State) (r : Reg) (v : Word) : (s.setReg r v).qovf = s.qovf := rfl
@[simp] theorem State.setReg_runState (s : State) (r : Reg) (v : Word) : (s.setReg r v).runState = s.runState := rfl
@[simp] theorem State.setReg_brecov (s : State) (r : Reg) (v : Word) : (s.setReg r v).brecov = s.brecov := rfl
@[simp] theorem State.setReg_hctx (s : State) (r : Reg) (v : Word) : (s.setReg r v).hctx = s.hctx := rfl
@[simp] theorem State.setReg_inhibit (s : State) (r : Reg) (v : Word) : (s.setReg r v).inhibit = s.inhibit := rfl
@[simp] theorem State.setReg_diag (s : State) (r : Reg) (v : Word) : (s.setReg r v).diag = s.diag := rfl
@[simp] theorem State.setReg_mem (s : State) (r : Reg) (v : Word) : (s.setReg r v).mem = s.mem := rfl
@[simp] theorem State.setReg_bus (s : State) (r : Reg) (v : Word) : (s.setReg r v).bus = s.bus := rfl
@[simp] theorem State.setReg_draws (s : State) (r : Reg) (v : Word) : (s.setReg r v).draws = s.draws := rfl
@[simp] theorem State.setReg_env (s : State) (r : Reg) (v : Word) : (s.setReg r v).env = s.env := rfl

/-! ## `State.setPc` -/

@[simp] theorem State.setPc_regs (s : State) (v : Word) : (s.setPc v).regs = s.regs := rfl
@[simp] theorem State.setPc_pc (s : State) (v : Word) : (s.setPc v).pc = v := rfl
@[simp] theorem State.setPc_sp (s : State) (v : Word) : (s.setPc v).sp = s.sp := rfl
@[simp] theorem State.setPc_flags (s : State) (v : Word) : (s.setPc v).flags = s.flags := rfl
@[simp] theorem State.setPc_tick (s : State) (v : Word) : (s.setPc v).tick = s.tick := rfl
@[simp] theorem State.setPc_cap (s : State) (v : Word) : (s.setPc v).cap = s.cap := rfl
@[simp] theorem State.setPc_cause (s : State) (v : Word) : (s.setPc v).cause = s.cause := rfl
@[simp] theorem State.setPc_evp (s : State) (v : Word) : (s.setPc v).evp = s.evp := rfl
@[simp] theorem State.setPc_evq (s : State) (v : Word) : (s.setPc v).evq = s.evq := rfl
@[simp] theorem State.setPc_qovf (s : State) (v : Word) : (s.setPc v).qovf = s.qovf := rfl
@[simp] theorem State.setPc_runState (s : State) (v : Word) : (s.setPc v).runState = s.runState := rfl
@[simp] theorem State.setPc_brecov (s : State) (v : Word) : (s.setPc v).brecov = s.brecov := rfl
@[simp] theorem State.setPc_hctx (s : State) (v : Word) : (s.setPc v).hctx = s.hctx := rfl
@[simp] theorem State.setPc_inhibit (s : State) (v : Word) : (s.setPc v).inhibit = s.inhibit := rfl
@[simp] theorem State.setPc_diag (s : State) (v : Word) : (s.setPc v).diag = s.diag := rfl
@[simp] theorem State.setPc_mem (s : State) (v : Word) : (s.setPc v).mem = s.mem := rfl
@[simp] theorem State.setPc_bus (s : State) (v : Word) : (s.setPc v).bus = s.bus := rfl
@[simp] theorem State.setPc_draws (s : State) (v : Word) : (s.setPc v).draws = s.draws := rfl
@[simp] theorem State.setPc_env (s : State) (v : Word) : (s.setPc v).env = s.env := rfl

/-! ## `State.setSp` -/

@[simp] theorem State.setSp_regs (s : State) (v : Word) : (s.setSp v).regs = s.regs := rfl
@[simp] theorem State.setSp_pc (s : State) (v : Word) : (s.setSp v).pc = s.pc := rfl
@[simp] theorem State.setSp_sp (s : State) (v : Word) : (s.setSp v).sp = v := rfl
@[simp] theorem State.setSp_flags (s : State) (v : Word) : (s.setSp v).flags = s.flags := rfl
@[simp] theorem State.setSp_tick (s : State) (v : Word) : (s.setSp v).tick = s.tick := rfl
@[simp] theorem State.setSp_cap (s : State) (v : Word) : (s.setSp v).cap = s.cap := rfl
@[simp] theorem State.setSp_cause (s : State) (v : Word) : (s.setSp v).cause = s.cause := rfl
@[simp] theorem State.setSp_evp (s : State) (v : Word) : (s.setSp v).evp = s.evp := rfl
@[simp] theorem State.setSp_evq (s : State) (v : Word) : (s.setSp v).evq = s.evq := rfl
@[simp] theorem State.setSp_qovf (s : State) (v : Word) : (s.setSp v).qovf = s.qovf := rfl
@[simp] theorem State.setSp_runState (s : State) (v : Word) : (s.setSp v).runState = s.runState := rfl
@[simp] theorem State.setSp_brecov (s : State) (v : Word) : (s.setSp v).brecov = s.brecov := rfl
@[simp] theorem State.setSp_hctx (s : State) (v : Word) : (s.setSp v).hctx = s.hctx := rfl
@[simp] theorem State.setSp_inhibit (s : State) (v : Word) : (s.setSp v).inhibit = s.inhibit := rfl
@[simp] theorem State.setSp_diag (s : State) (v : Word) : (s.setSp v).diag = s.diag := rfl
@[simp] theorem State.setSp_mem (s : State) (v : Word) : (s.setSp v).mem = s.mem := rfl
@[simp] theorem State.setSp_bus (s : State) (v : Word) : (s.setSp v).bus = s.bus := rfl
@[simp] theorem State.setSp_draws (s : State) (v : Word) : (s.setSp v).draws = s.draws := rfl
@[simp] theorem State.setSp_env (s : State) (v : Word) : (s.setSp v).env = s.env := rfl

/-! ## `State.setFlags` -/

@[simp] theorem State.setFlags_regs (s : State) (v : Word) : (s.setFlags v).regs = s.regs := rfl
@[simp] theorem State.setFlags_pc (s : State) (v : Word) : (s.setFlags v).pc = s.pc := rfl
@[simp] theorem State.setFlags_sp (s : State) (v : Word) : (s.setFlags v).sp = s.sp := rfl
@[simp] theorem State.setFlags_flags (s : State) (v : Word) : (s.setFlags v).flags = v := rfl
@[simp] theorem State.setFlags_tick (s : State) (v : Word) : (s.setFlags v).tick = s.tick := rfl
@[simp] theorem State.setFlags_cap (s : State) (v : Word) : (s.setFlags v).cap = s.cap := rfl
@[simp] theorem State.setFlags_cause (s : State) (v : Word) : (s.setFlags v).cause = s.cause := rfl
@[simp] theorem State.setFlags_evp (s : State) (v : Word) : (s.setFlags v).evp = s.evp := rfl
@[simp] theorem State.setFlags_evq (s : State) (v : Word) : (s.setFlags v).evq = s.evq := rfl
@[simp] theorem State.setFlags_qovf (s : State) (v : Word) : (s.setFlags v).qovf = s.qovf := rfl
@[simp] theorem State.setFlags_runState (s : State) (v : Word) : (s.setFlags v).runState = s.runState := rfl
@[simp] theorem State.setFlags_brecov (s : State) (v : Word) : (s.setFlags v).brecov = s.brecov := rfl
@[simp] theorem State.setFlags_hctx (s : State) (v : Word) : (s.setFlags v).hctx = s.hctx := rfl
@[simp] theorem State.setFlags_inhibit (s : State) (v : Word) : (s.setFlags v).inhibit = s.inhibit := rfl
@[simp] theorem State.setFlags_diag (s : State) (v : Word) : (s.setFlags v).diag = s.diag := rfl
@[simp] theorem State.setFlags_mem (s : State) (v : Word) : (s.setFlags v).mem = s.mem := rfl
@[simp] theorem State.setFlags_bus (s : State) (v : Word) : (s.setFlags v).bus = s.bus := rfl
@[simp] theorem State.setFlags_draws (s : State) (v : Word) : (s.setFlags v).draws = s.draws := rfl
@[simp] theorem State.setFlags_env (s : State) (v : Word) : (s.setFlags v).env = s.env := rfl

/-! ## `State.setTick` -/

@[simp] theorem State.setTick_regs (s : State) (v : Word) : (s.setTick v).regs = s.regs := rfl
@[simp] theorem State.setTick_pc (s : State) (v : Word) : (s.setTick v).pc = s.pc := rfl
@[simp] theorem State.setTick_sp (s : State) (v : Word) : (s.setTick v).sp = s.sp := rfl
@[simp] theorem State.setTick_flags (s : State) (v : Word) : (s.setTick v).flags = s.flags := rfl
@[simp] theorem State.setTick_tick (s : State) (v : Word) : (s.setTick v).tick = v := rfl
@[simp] theorem State.setTick_cap (s : State) (v : Word) : (s.setTick v).cap = s.cap := rfl
@[simp] theorem State.setTick_cause (s : State) (v : Word) : (s.setTick v).cause = s.cause := rfl
@[simp] theorem State.setTick_evp (s : State) (v : Word) : (s.setTick v).evp = s.evp := rfl
@[simp] theorem State.setTick_evq (s : State) (v : Word) : (s.setTick v).evq = s.evq := rfl
@[simp] theorem State.setTick_qovf (s : State) (v : Word) : (s.setTick v).qovf = s.qovf := rfl
@[simp] theorem State.setTick_runState (s : State) (v : Word) : (s.setTick v).runState = s.runState := rfl
@[simp] theorem State.setTick_brecov (s : State) (v : Word) : (s.setTick v).brecov = s.brecov := rfl
@[simp] theorem State.setTick_hctx (s : State) (v : Word) : (s.setTick v).hctx = s.hctx := rfl
@[simp] theorem State.setTick_inhibit (s : State) (v : Word) : (s.setTick v).inhibit = s.inhibit := rfl
@[simp] theorem State.setTick_diag (s : State) (v : Word) : (s.setTick v).diag = s.diag := rfl
@[simp] theorem State.setTick_mem (s : State) (v : Word) : (s.setTick v).mem = s.mem := rfl
@[simp] theorem State.setTick_bus (s : State) (v : Word) : (s.setTick v).bus = s.bus := rfl
@[simp] theorem State.setTick_draws (s : State) (v : Word) : (s.setTick v).draws = s.draws := rfl
@[simp] theorem State.setTick_env (s : State) (v : Word) : (s.setTick v).env = s.env := rfl

/-! ## `State.setCause` -/

@[simp] theorem State.setCause_regs (s : State) (v : Word) : (s.setCause v).regs = s.regs := rfl
@[simp] theorem State.setCause_pc (s : State) (v : Word) : (s.setCause v).pc = s.pc := rfl
@[simp] theorem State.setCause_sp (s : State) (v : Word) : (s.setCause v).sp = s.sp := rfl
@[simp] theorem State.setCause_flags (s : State) (v : Word) : (s.setCause v).flags = s.flags := rfl
@[simp] theorem State.setCause_tick (s : State) (v : Word) : (s.setCause v).tick = s.tick := rfl
@[simp] theorem State.setCause_cap (s : State) (v : Word) : (s.setCause v).cap = s.cap := rfl
@[simp] theorem State.setCause_cause (s : State) (v : Word) : (s.setCause v).cause = v := rfl
@[simp] theorem State.setCause_evp (s : State) (v : Word) : (s.setCause v).evp = s.evp := rfl
@[simp] theorem State.setCause_evq (s : State) (v : Word) : (s.setCause v).evq = s.evq := rfl
@[simp] theorem State.setCause_qovf (s : State) (v : Word) : (s.setCause v).qovf = s.qovf := rfl
@[simp] theorem State.setCause_runState (s : State) (v : Word) : (s.setCause v).runState = s.runState := rfl
@[simp] theorem State.setCause_brecov (s : State) (v : Word) : (s.setCause v).brecov = s.brecov := rfl
@[simp] theorem State.setCause_hctx (s : State) (v : Word) : (s.setCause v).hctx = s.hctx := rfl
@[simp] theorem State.setCause_inhibit (s : State) (v : Word) : (s.setCause v).inhibit = s.inhibit := rfl
@[simp] theorem State.setCause_diag (s : State) (v : Word) : (s.setCause v).diag = s.diag := rfl
@[simp] theorem State.setCause_mem (s : State) (v : Word) : (s.setCause v).mem = s.mem := rfl
@[simp] theorem State.setCause_bus (s : State) (v : Word) : (s.setCause v).bus = s.bus := rfl
@[simp] theorem State.setCause_draws (s : State) (v : Word) : (s.setCause v).draws = s.draws := rfl
@[simp] theorem State.setCause_env (s : State) (v : Word) : (s.setCause v).env = s.env := rfl

/-! ## `State.setQovf` -/

@[simp] theorem State.setQovf_regs (s : State) (b : Bool) : (s.setQovf b).regs = s.regs := rfl
@[simp] theorem State.setQovf_pc (s : State) (b : Bool) : (s.setQovf b).pc = s.pc := rfl
@[simp] theorem State.setQovf_sp (s : State) (b : Bool) : (s.setQovf b).sp = s.sp := rfl
@[simp] theorem State.setQovf_flags (s : State) (b : Bool) : (s.setQovf b).flags = s.flags := rfl
@[simp] theorem State.setQovf_tick (s : State) (b : Bool) : (s.setQovf b).tick = s.tick := rfl
@[simp] theorem State.setQovf_cap (s : State) (b : Bool) : (s.setQovf b).cap = s.cap := rfl
@[simp] theorem State.setQovf_cause (s : State) (b : Bool) : (s.setQovf b).cause = s.cause := rfl
@[simp] theorem State.setQovf_evp (s : State) (b : Bool) : (s.setQovf b).evp = s.evp := rfl
@[simp] theorem State.setQovf_evq (s : State) (b : Bool) : (s.setQovf b).evq = s.evq := rfl
@[simp] theorem State.setQovf_qovf (s : State) (b : Bool) : (s.setQovf b).qovf = b := rfl
@[simp] theorem State.setQovf_runState (s : State) (b : Bool) : (s.setQovf b).runState = s.runState := rfl
@[simp] theorem State.setQovf_brecov (s : State) (b : Bool) : (s.setQovf b).brecov = s.brecov := rfl
@[simp] theorem State.setQovf_hctx (s : State) (b : Bool) : (s.setQovf b).hctx = s.hctx := rfl
@[simp] theorem State.setQovf_inhibit (s : State) (b : Bool) : (s.setQovf b).inhibit = s.inhibit := rfl
@[simp] theorem State.setQovf_diag (s : State) (b : Bool) : (s.setQovf b).diag = s.diag := rfl
@[simp] theorem State.setQovf_mem (s : State) (b : Bool) : (s.setQovf b).mem = s.mem := rfl
@[simp] theorem State.setQovf_bus (s : State) (b : Bool) : (s.setQovf b).bus = s.bus := rfl
@[simp] theorem State.setQovf_draws (s : State) (b : Bool) : (s.setQovf b).draws = s.draws := rfl
@[simp] theorem State.setQovf_env (s : State) (b : Bool) : (s.setQovf b).env = s.env := rfl

/-! ## `State.setRunState` -/

@[simp] theorem State.setRunState_regs (s : State) (r : RunState) : (s.setRunState r).regs = s.regs := rfl
@[simp] theorem State.setRunState_pc (s : State) (r : RunState) : (s.setRunState r).pc = s.pc := rfl
@[simp] theorem State.setRunState_sp (s : State) (r : RunState) : (s.setRunState r).sp = s.sp := rfl
@[simp] theorem State.setRunState_flags (s : State) (r : RunState) : (s.setRunState r).flags = s.flags := rfl
@[simp] theorem State.setRunState_tick (s : State) (r : RunState) : (s.setRunState r).tick = s.tick := rfl
@[simp] theorem State.setRunState_cap (s : State) (r : RunState) : (s.setRunState r).cap = s.cap := rfl
@[simp] theorem State.setRunState_cause (s : State) (r : RunState) : (s.setRunState r).cause = s.cause := rfl
@[simp] theorem State.setRunState_evp (s : State) (r : RunState) : (s.setRunState r).evp = s.evp := rfl
@[simp] theorem State.setRunState_evq (s : State) (r : RunState) : (s.setRunState r).evq = s.evq := rfl
@[simp] theorem State.setRunState_qovf (s : State) (r : RunState) : (s.setRunState r).qovf = s.qovf := rfl
@[simp] theorem State.setRunState_runState (s : State) (r : RunState) : (s.setRunState r).runState = r := rfl
@[simp] theorem State.setRunState_brecov (s : State) (r : RunState) : (s.setRunState r).brecov = s.brecov := rfl
@[simp] theorem State.setRunState_hctx (s : State) (r : RunState) : (s.setRunState r).hctx = s.hctx := rfl
@[simp] theorem State.setRunState_inhibit (s : State) (r : RunState) : (s.setRunState r).inhibit = s.inhibit := rfl
@[simp] theorem State.setRunState_diag (s : State) (r : RunState) : (s.setRunState r).diag = s.diag := rfl
@[simp] theorem State.setRunState_mem (s : State) (r : RunState) : (s.setRunState r).mem = s.mem := rfl
@[simp] theorem State.setRunState_bus (s : State) (r : RunState) : (s.setRunState r).bus = s.bus := rfl
@[simp] theorem State.setRunState_draws (s : State) (r : RunState) : (s.setRunState r).draws = s.draws := rfl
@[simp] theorem State.setRunState_env (s : State) (r : RunState) : (s.setRunState r).env = s.env := rfl

/-! ## `State.setBrecov` -/

@[simp] theorem State.setBrecov_regs (s : State) (b : Bool) : (s.setBrecov b).regs = s.regs := rfl
@[simp] theorem State.setBrecov_pc (s : State) (b : Bool) : (s.setBrecov b).pc = s.pc := rfl
@[simp] theorem State.setBrecov_sp (s : State) (b : Bool) : (s.setBrecov b).sp = s.sp := rfl
@[simp] theorem State.setBrecov_flags (s : State) (b : Bool) : (s.setBrecov b).flags = s.flags := rfl
@[simp] theorem State.setBrecov_tick (s : State) (b : Bool) : (s.setBrecov b).tick = s.tick := rfl
@[simp] theorem State.setBrecov_cap (s : State) (b : Bool) : (s.setBrecov b).cap = s.cap := rfl
@[simp] theorem State.setBrecov_cause (s : State) (b : Bool) : (s.setBrecov b).cause = s.cause := rfl
@[simp] theorem State.setBrecov_evp (s : State) (b : Bool) : (s.setBrecov b).evp = s.evp := rfl
@[simp] theorem State.setBrecov_evq (s : State) (b : Bool) : (s.setBrecov b).evq = s.evq := rfl
@[simp] theorem State.setBrecov_qovf (s : State) (b : Bool) : (s.setBrecov b).qovf = s.qovf := rfl
@[simp] theorem State.setBrecov_runState (s : State) (b : Bool) : (s.setBrecov b).runState = s.runState := rfl
@[simp] theorem State.setBrecov_brecov (s : State) (b : Bool) : (s.setBrecov b).brecov = b := rfl
@[simp] theorem State.setBrecov_hctx (s : State) (b : Bool) : (s.setBrecov b).hctx = s.hctx := rfl
@[simp] theorem State.setBrecov_inhibit (s : State) (b : Bool) : (s.setBrecov b).inhibit = s.inhibit := rfl
@[simp] theorem State.setBrecov_diag (s : State) (b : Bool) : (s.setBrecov b).diag = s.diag := rfl
@[simp] theorem State.setBrecov_mem (s : State) (b : Bool) : (s.setBrecov b).mem = s.mem := rfl
@[simp] theorem State.setBrecov_bus (s : State) (b : Bool) : (s.setBrecov b).bus = s.bus := rfl
@[simp] theorem State.setBrecov_draws (s : State) (b : Bool) : (s.setBrecov b).draws = s.draws := rfl
@[simp] theorem State.setBrecov_env (s : State) (b : Bool) : (s.setBrecov b).env = s.env := rfl

/-! ## `State.setHctx` -/

@[simp] theorem State.setHctx_regs (s : State) (h : List DispatchClass) : (s.setHctx h).regs = s.regs := rfl
@[simp] theorem State.setHctx_pc (s : State) (h : List DispatchClass) : (s.setHctx h).pc = s.pc := rfl
@[simp] theorem State.setHctx_sp (s : State) (h : List DispatchClass) : (s.setHctx h).sp = s.sp := rfl
@[simp] theorem State.setHctx_flags (s : State) (h : List DispatchClass) : (s.setHctx h).flags = s.flags := rfl
@[simp] theorem State.setHctx_tick (s : State) (h : List DispatchClass) : (s.setHctx h).tick = s.tick := rfl
@[simp] theorem State.setHctx_cap (s : State) (h : List DispatchClass) : (s.setHctx h).cap = s.cap := rfl
@[simp] theorem State.setHctx_cause (s : State) (h : List DispatchClass) : (s.setHctx h).cause = s.cause := rfl
@[simp] theorem State.setHctx_evp (s : State) (h : List DispatchClass) : (s.setHctx h).evp = s.evp := rfl
@[simp] theorem State.setHctx_evq (s : State) (h : List DispatchClass) : (s.setHctx h).evq = s.evq := rfl
@[simp] theorem State.setHctx_qovf (s : State) (h : List DispatchClass) : (s.setHctx h).qovf = s.qovf := rfl
@[simp] theorem State.setHctx_runState (s : State) (h : List DispatchClass) : (s.setHctx h).runState = s.runState := rfl
@[simp] theorem State.setHctx_brecov (s : State) (h : List DispatchClass) : (s.setHctx h).brecov = s.brecov := rfl
@[simp] theorem State.setHctx_hctx (s : State) (h : List DispatchClass) : (s.setHctx h).hctx = h := rfl
@[simp] theorem State.setHctx_inhibit (s : State) (h : List DispatchClass) : (s.setHctx h).inhibit = s.inhibit := rfl
@[simp] theorem State.setHctx_diag (s : State) (h : List DispatchClass) : (s.setHctx h).diag = s.diag := rfl
@[simp] theorem State.setHctx_mem (s : State) (h : List DispatchClass) : (s.setHctx h).mem = s.mem := rfl
@[simp] theorem State.setHctx_bus (s : State) (h : List DispatchClass) : (s.setHctx h).bus = s.bus := rfl
@[simp] theorem State.setHctx_draws (s : State) (h : List DispatchClass) : (s.setHctx h).draws = s.draws := rfl
@[simp] theorem State.setHctx_env (s : State) (h : List DispatchClass) : (s.setHctx h).env = s.env := rfl

/-! ## `State.setDiag` -/

@[simp] theorem State.setDiag_regs (s : State) (d : Diag) : (s.setDiag d).regs = s.regs := rfl
@[simp] theorem State.setDiag_pc (s : State) (d : Diag) : (s.setDiag d).pc = s.pc := rfl
@[simp] theorem State.setDiag_sp (s : State) (d : Diag) : (s.setDiag d).sp = s.sp := rfl
@[simp] theorem State.setDiag_flags (s : State) (d : Diag) : (s.setDiag d).flags = s.flags := rfl
@[simp] theorem State.setDiag_tick (s : State) (d : Diag) : (s.setDiag d).tick = s.tick := rfl
@[simp] theorem State.setDiag_cap (s : State) (d : Diag) : (s.setDiag d).cap = s.cap := rfl
@[simp] theorem State.setDiag_cause (s : State) (d : Diag) : (s.setDiag d).cause = s.cause := rfl
@[simp] theorem State.setDiag_evp (s : State) (d : Diag) : (s.setDiag d).evp = s.evp := rfl
@[simp] theorem State.setDiag_evq (s : State) (d : Diag) : (s.setDiag d).evq = s.evq := rfl
@[simp] theorem State.setDiag_qovf (s : State) (d : Diag) : (s.setDiag d).qovf = s.qovf := rfl
@[simp] theorem State.setDiag_runState (s : State) (d : Diag) : (s.setDiag d).runState = s.runState := rfl
@[simp] theorem State.setDiag_brecov (s : State) (d : Diag) : (s.setDiag d).brecov = s.brecov := rfl
@[simp] theorem State.setDiag_hctx (s : State) (d : Diag) : (s.setDiag d).hctx = s.hctx := rfl
@[simp] theorem State.setDiag_inhibit (s : State) (d : Diag) : (s.setDiag d).inhibit = s.inhibit := rfl
@[simp] theorem State.setDiag_diag (s : State) (d : Diag) : (s.setDiag d).diag = d := rfl
@[simp] theorem State.setDiag_mem (s : State) (d : Diag) : (s.setDiag d).mem = s.mem := rfl
@[simp] theorem State.setDiag_bus (s : State) (d : Diag) : (s.setDiag d).bus = s.bus := rfl
@[simp] theorem State.setDiag_draws (s : State) (d : Diag) : (s.setDiag d).draws = s.draws := rfl
@[simp] theorem State.setDiag_env (s : State) (d : Diag) : (s.setDiag d).env = s.env := rfl

/-! ## `State.setMem` -/

@[simp] theorem State.setMem_regs (s : State) (m : Memory) : (s.setMem m).regs = s.regs := rfl
@[simp] theorem State.setMem_pc (s : State) (m : Memory) : (s.setMem m).pc = s.pc := rfl
@[simp] theorem State.setMem_sp (s : State) (m : Memory) : (s.setMem m).sp = s.sp := rfl
@[simp] theorem State.setMem_flags (s : State) (m : Memory) : (s.setMem m).flags = s.flags := rfl
@[simp] theorem State.setMem_tick (s : State) (m : Memory) : (s.setMem m).tick = s.tick := rfl
@[simp] theorem State.setMem_cap (s : State) (m : Memory) : (s.setMem m).cap = s.cap := rfl
@[simp] theorem State.setMem_cause (s : State) (m : Memory) : (s.setMem m).cause = s.cause := rfl
@[simp] theorem State.setMem_evp (s : State) (m : Memory) : (s.setMem m).evp = s.evp := rfl
@[simp] theorem State.setMem_evq (s : State) (m : Memory) : (s.setMem m).evq = s.evq := rfl
@[simp] theorem State.setMem_qovf (s : State) (m : Memory) : (s.setMem m).qovf = s.qovf := rfl
@[simp] theorem State.setMem_runState (s : State) (m : Memory) : (s.setMem m).runState = s.runState := rfl
@[simp] theorem State.setMem_brecov (s : State) (m : Memory) : (s.setMem m).brecov = s.brecov := rfl
@[simp] theorem State.setMem_hctx (s : State) (m : Memory) : (s.setMem m).hctx = s.hctx := rfl
@[simp] theorem State.setMem_inhibit (s : State) (m : Memory) : (s.setMem m).inhibit = s.inhibit := rfl
@[simp] theorem State.setMem_diag (s : State) (m : Memory) : (s.setMem m).diag = s.diag := rfl
@[simp] theorem State.setMem_mem (s : State) (m : Memory) : (s.setMem m).mem = m := rfl
@[simp] theorem State.setMem_bus (s : State) (m : Memory) : (s.setMem m).bus = s.bus := rfl
@[simp] theorem State.setMem_draws (s : State) (m : Memory) : (s.setMem m).draws = s.draws := rfl
@[simp] theorem State.setMem_env (s : State) (m : Memory) : (s.setMem m).env = s.env := rfl

/-! ## `State.setEnv` -/

@[simp] theorem State.setEnv_regs (s : State) (e : List (List Input)) : (s.setEnv e).regs = s.regs := rfl
@[simp] theorem State.setEnv_pc (s : State) (e : List (List Input)) : (s.setEnv e).pc = s.pc := rfl
@[simp] theorem State.setEnv_sp (s : State) (e : List (List Input)) : (s.setEnv e).sp = s.sp := rfl
@[simp] theorem State.setEnv_flags (s : State) (e : List (List Input)) : (s.setEnv e).flags = s.flags := rfl
@[simp] theorem State.setEnv_tick (s : State) (e : List (List Input)) : (s.setEnv e).tick = s.tick := rfl
@[simp] theorem State.setEnv_cap (s : State) (e : List (List Input)) : (s.setEnv e).cap = s.cap := rfl
@[simp] theorem State.setEnv_cause (s : State) (e : List (List Input)) : (s.setEnv e).cause = s.cause := rfl
@[simp] theorem State.setEnv_evp (s : State) (e : List (List Input)) : (s.setEnv e).evp = s.evp := rfl
@[simp] theorem State.setEnv_evq (s : State) (e : List (List Input)) : (s.setEnv e).evq = s.evq := rfl
@[simp] theorem State.setEnv_qovf (s : State) (e : List (List Input)) : (s.setEnv e).qovf = s.qovf := rfl
@[simp] theorem State.setEnv_runState (s : State) (e : List (List Input)) : (s.setEnv e).runState = s.runState := rfl
@[simp] theorem State.setEnv_brecov (s : State) (e : List (List Input)) : (s.setEnv e).brecov = s.brecov := rfl
@[simp] theorem State.setEnv_hctx (s : State) (e : List (List Input)) : (s.setEnv e).hctx = s.hctx := rfl
@[simp] theorem State.setEnv_inhibit (s : State) (e : List (List Input)) : (s.setEnv e).inhibit = s.inhibit := rfl
@[simp] theorem State.setEnv_diag (s : State) (e : List (List Input)) : (s.setEnv e).diag = s.diag := rfl
@[simp] theorem State.setEnv_mem (s : State) (e : List (List Input)) : (s.setEnv e).mem = s.mem := rfl
@[simp] theorem State.setEnv_bus (s : State) (e : List (List Input)) : (s.setEnv e).bus = s.bus := rfl
@[simp] theorem State.setEnv_draws (s : State) (e : List (List Input)) : (s.setEnv e).draws = s.draws := rfl
@[simp] theorem State.setEnv_env (s : State) (e : List (List Input)) : (s.setEnv e).env = e := rfl

/-! ## `State.setEvq` -/

@[simp] theorem State.setEvq_regs (s : State) (q : List Byte) : (s.setEvq q).regs = s.regs := rfl
@[simp] theorem State.setEvq_pc (s : State) (q : List Byte) : (s.setEvq q).pc = s.pc := rfl
@[simp] theorem State.setEvq_sp (s : State) (q : List Byte) : (s.setEvq q).sp = s.sp := rfl
@[simp] theorem State.setEvq_flags (s : State) (q : List Byte) : (s.setEvq q).flags = s.flags := rfl
@[simp] theorem State.setEvq_tick (s : State) (q : List Byte) : (s.setEvq q).tick = s.tick := rfl
@[simp] theorem State.setEvq_cap (s : State) (q : List Byte) : (s.setEvq q).cap = s.cap := rfl
@[simp] theorem State.setEvq_cause (s : State) (q : List Byte) : (s.setEvq q).cause = s.cause := rfl
@[simp] theorem State.setEvq_evp (s : State) (q : List Byte) : (s.setEvq q).evp = evpOf q := rfl
@[simp] theorem State.setEvq_evq (s : State) (q : List Byte) : (s.setEvq q).evq = q := rfl
@[simp] theorem State.setEvq_qovf (s : State) (q : List Byte) : (s.setEvq q).qovf = s.qovf := rfl
@[simp] theorem State.setEvq_runState (s : State) (q : List Byte) : (s.setEvq q).runState = s.runState := rfl
@[simp] theorem State.setEvq_brecov (s : State) (q : List Byte) : (s.setEvq q).brecov = s.brecov := rfl
@[simp] theorem State.setEvq_hctx (s : State) (q : List Byte) : (s.setEvq q).hctx = s.hctx := rfl
@[simp] theorem State.setEvq_inhibit (s : State) (q : List Byte) : (s.setEvq q).inhibit = s.inhibit := rfl
@[simp] theorem State.setEvq_diag (s : State) (q : List Byte) : (s.setEvq q).diag = s.diag := rfl
@[simp] theorem State.setEvq_mem (s : State) (q : List Byte) : (s.setEvq q).mem = s.mem := rfl
@[simp] theorem State.setEvq_bus (s : State) (q : List Byte) : (s.setEvq q).bus = s.bus := rfl
@[simp] theorem State.setEvq_draws (s : State) (q : List Byte) : (s.setEvq q).draws = s.draws := rfl
@[simp] theorem State.setEvq_env (s : State) (q : List Byte) : (s.setEvq q).env = s.env := rfl

/-! ## `State.busRead` -/

@[simp] theorem State.busRead_regs (s : State) (a : Word) : (s.busRead a).regs = s.regs := rfl
@[simp] theorem State.busRead_pc (s : State) (a : Word) : (s.busRead a).pc = s.pc := rfl
@[simp] theorem State.busRead_sp (s : State) (a : Word) : (s.busRead a).sp = s.sp := rfl
@[simp] theorem State.busRead_flags (s : State) (a : Word) : (s.busRead a).flags = s.flags := rfl
@[simp] theorem State.busRead_tick (s : State) (a : Word) : (s.busRead a).tick = s.tick := rfl
@[simp] theorem State.busRead_cap (s : State) (a : Word) : (s.busRead a).cap = s.cap := rfl
@[simp] theorem State.busRead_cause (s : State) (a : Word) : (s.busRead a).cause = s.cause := rfl
@[simp] theorem State.busRead_evp (s : State) (a : Word) : (s.busRead a).evp = s.evp := rfl
@[simp] theorem State.busRead_evq (s : State) (a : Word) : (s.busRead a).evq = s.evq := rfl
@[simp] theorem State.busRead_qovf (s : State) (a : Word) : (s.busRead a).qovf = s.qovf := rfl
@[simp] theorem State.busRead_runState (s : State) (a : Word) : (s.busRead a).runState = s.runState := rfl
@[simp] theorem State.busRead_brecov (s : State) (a : Word) : (s.busRead a).brecov = s.brecov := rfl
@[simp] theorem State.busRead_hctx (s : State) (a : Word) : (s.busRead a).hctx = s.hctx := rfl
@[simp] theorem State.busRead_inhibit (s : State) (a : Word) : (s.busRead a).inhibit = s.inhibit := rfl
@[simp] theorem State.busRead_diag (s : State) (a : Word) : (s.busRead a).diag = s.diag := rfl
@[simp] theorem State.busRead_mem (s : State) (a : Word) : (s.busRead a).mem = s.mem := rfl
@[simp] theorem State.busRead_bus (s : State) (a : Word) : (s.busRead a).bus = .read a (s.deviceAnswer a) :: s.bus := rfl
@[simp] theorem State.busRead_draws (s : State) (a : Word) : (s.busRead a).draws = s.draws + 1 := rfl
@[simp] theorem State.busRead_env (s : State) (a : Word) : (s.busRead a).env = s.env := rfl

/-! ## `State.busWrite` -/

@[simp] theorem State.busWrite_regs (s : State) (a v : Word) : (s.busWrite a v).regs = s.regs := rfl
@[simp] theorem State.busWrite_pc (s : State) (a v : Word) : (s.busWrite a v).pc = s.pc := rfl
@[simp] theorem State.busWrite_sp (s : State) (a v : Word) : (s.busWrite a v).sp = s.sp := rfl
@[simp] theorem State.busWrite_flags (s : State) (a v : Word) : (s.busWrite a v).flags = s.flags := rfl
@[simp] theorem State.busWrite_tick (s : State) (a v : Word) : (s.busWrite a v).tick = s.tick := rfl
@[simp] theorem State.busWrite_cap (s : State) (a v : Word) : (s.busWrite a v).cap = s.cap := rfl
@[simp] theorem State.busWrite_cause (s : State) (a v : Word) : (s.busWrite a v).cause = s.cause := rfl
@[simp] theorem State.busWrite_evp (s : State) (a v : Word) : (s.busWrite a v).evp = s.evp := rfl
@[simp] theorem State.busWrite_evq (s : State) (a v : Word) : (s.busWrite a v).evq = s.evq := rfl
@[simp] theorem State.busWrite_qovf (s : State) (a v : Word) : (s.busWrite a v).qovf = s.qovf := rfl
@[simp] theorem State.busWrite_runState (s : State) (a v : Word) : (s.busWrite a v).runState = s.runState := rfl
@[simp] theorem State.busWrite_brecov (s : State) (a v : Word) : (s.busWrite a v).brecov = s.brecov := rfl
@[simp] theorem State.busWrite_hctx (s : State) (a v : Word) : (s.busWrite a v).hctx = s.hctx := rfl
@[simp] theorem State.busWrite_inhibit (s : State) (a v : Word) : (s.busWrite a v).inhibit = (s.inhibit || !s.voterAllows a v) := rfl
@[simp] theorem State.busWrite_diag (s : State) (a v : Word) : (s.busWrite a v).diag = s.diag := rfl
@[simp] theorem State.busWrite_mem (s : State) (a v : Word) : (s.busWrite a v).mem = s.mem := rfl
@[simp] theorem State.busWrite_bus (s : State) (a v : Word) : (s.busWrite a v).bus = if s.voterAllows a v then .write a v :: s.bus else s.bus := rfl
@[simp] theorem State.busWrite_draws (s : State) (a v : Word) : (s.busWrite a v).draws = s.draws + 1 := rfl
@[simp] theorem State.busWrite_env (s : State) (a v : Word) : (s.busWrite a v).env = s.env := rfl

/-! ## `State.countInstr` -/

@[simp] theorem State.countInstr_regs (s : State) : (s.countInstr).regs = s.regs := rfl
@[simp] theorem State.countInstr_pc (s : State) : (s.countInstr).pc = s.pc := rfl
@[simp] theorem State.countInstr_sp (s : State) : (s.countInstr).sp = s.sp := rfl
@[simp] theorem State.countInstr_flags (s : State) : (s.countInstr).flags = s.flags := rfl
@[simp] theorem State.countInstr_tick (s : State) : (s.countInstr).tick = s.tick := rfl
@[simp] theorem State.countInstr_cap (s : State) : (s.countInstr).cap = s.cap := rfl
@[simp] theorem State.countInstr_cause (s : State) : (s.countInstr).cause = s.cause := rfl
@[simp] theorem State.countInstr_evp (s : State) : (s.countInstr).evp = s.evp := rfl
@[simp] theorem State.countInstr_evq (s : State) : (s.countInstr).evq = s.evq := rfl
@[simp] theorem State.countInstr_qovf (s : State) : (s.countInstr).qovf = s.qovf := rfl
@[simp] theorem State.countInstr_runState (s : State) : (s.countInstr).runState = s.runState := rfl
@[simp] theorem State.countInstr_brecov (s : State) : (s.countInstr).brecov = s.brecov := rfl
@[simp] theorem State.countInstr_hctx (s : State) : (s.countInstr).hctx = s.hctx := rfl
@[simp] theorem State.countInstr_inhibit (s : State) : (s.countInstr).inhibit = s.inhibit := rfl
@[simp] theorem State.countInstr_diag (s : State) : (s.countInstr).diag = s.diag.countInstr := rfl
@[simp] theorem State.countInstr_mem (s : State) : (s.countInstr).mem = s.mem := rfl
@[simp] theorem State.countInstr_bus (s : State) : (s.countInstr).bus = s.bus := rfl
@[simp] theorem State.countInstr_draws (s : State) : (s.countInstr).draws = s.draws := rfl
@[simp] theorem State.countInstr_env (s : State) : (s.countInstr).env = s.env := rfl

/-! ## `State.recordFault` -/

@[simp] theorem State.recordFault_regs (s : State) (k : FaultKind) : (s.recordFault k).regs = s.regs := rfl
@[simp] theorem State.recordFault_pc (s : State) (k : FaultKind) : (s.recordFault k).pc = s.pc := rfl
@[simp] theorem State.recordFault_sp (s : State) (k : FaultKind) : (s.recordFault k).sp = s.sp := rfl
@[simp] theorem State.recordFault_flags (s : State) (k : FaultKind) : (s.recordFault k).flags = s.flags := rfl
@[simp] theorem State.recordFault_tick (s : State) (k : FaultKind) : (s.recordFault k).tick = s.tick := rfl
@[simp] theorem State.recordFault_cap (s : State) (k : FaultKind) : (s.recordFault k).cap = s.cap := rfl
@[simp] theorem State.recordFault_cause (s : State) (k : FaultKind) : (s.recordFault k).cause = s.cause := rfl
@[simp] theorem State.recordFault_evp (s : State) (k : FaultKind) : (s.recordFault k).evp = s.evp := rfl
@[simp] theorem State.recordFault_evq (s : State) (k : FaultKind) : (s.recordFault k).evq = s.evq := rfl
@[simp] theorem State.recordFault_qovf (s : State) (k : FaultKind) : (s.recordFault k).qovf = s.qovf := rfl
@[simp] theorem State.recordFault_runState (s : State) (k : FaultKind) : (s.recordFault k).runState = s.runState := rfl
@[simp] theorem State.recordFault_brecov (s : State) (k : FaultKind) : (s.recordFault k).brecov = s.brecov := rfl
@[simp] theorem State.recordFault_hctx (s : State) (k : FaultKind) : (s.recordFault k).hctx = s.hctx := rfl
@[simp] theorem State.recordFault_inhibit (s : State) (k : FaultKind) : (s.recordFault k).inhibit = s.inhibit := rfl
@[simp] theorem State.recordFault_diag (s : State) (k : FaultKind) : (s.recordFault k).diag = s.diag.record k s.pc s.tick := rfl
@[simp] theorem State.recordFault_mem (s : State) (k : FaultKind) : (s.recordFault k).mem = s.mem := rfl
@[simp] theorem State.recordFault_bus (s : State) (k : FaultKind) : (s.recordFault k).bus = s.bus := rfl
@[simp] theorem State.recordFault_draws (s : State) (k : FaultKind) : (s.recordFault k).draws = s.draws := rfl
@[simp] theorem State.recordFault_env (s : State) (k : FaultKind) : (s.recordFault k).env = s.env := rfl

/-! ## The register file -/

@[simp] theorem RegFile.get_set_same (f : RegFile) (r : Reg) (v : Word) : (f.set r v).get r = v := by
  cases r <;> rfl

theorem RegFile.get_set_other (f : RegFile) (r q : Reg) (v : Word) (h : q ≠ r) : (f.set r v).get q = f.get q := by
  cases r <;> cases q <;> first | rfl | exact absurd rfl h

theorem RegFile.get_set (f : RegFile) (r q : Reg) (v : Word) :
    (f.set r v).get q = if q = r then v else f.get q := by
  by_cases h : q = r
  · subst h; simp
  · simp [h, RegFile.get_set_other f r q v h]

/-- Two register files that agree on every register are equal. -/
theorem RegFile.ext_get {f g : RegFile} (h : ∀ r, f.get r = g.get r) : f = g := by
  cases f; cases g
  have h0 := h .r0; have h1 := h .r1; have h2 := h .r2; have h3 := h .r3
  have h4 := h .r4; have h5 := h .r5; have h6 := h .r6; have h7 := h .r7
  simp only [RegFile.get] at h0 h1 h2 h3 h4 h5 h6 h7
  simp [h0, h1, h2, h3, h4, h5, h6, h7]

theorem State.reg_def (s : State) (r : Reg) : s.reg r = s.regs.get r := rfl

@[simp] theorem State.reg_setReg_same (s : State) (r : Reg) (v : Word) : (s.setReg r v).reg r = v := by
  simp [State.reg_def]

theorem State.reg_setReg_other (s : State) (r q : Reg) (v : Word) (h : q ≠ r) : (s.setReg r v).reg q = s.reg q :=
  RegFile.get_set_other s.regs r q v h

/-! ## What reads nothing but one field -/

@[simp] theorem State.setReg_flag (s : State) (r : Reg) (v : Word) (k : Flag) : (s.setReg r v).flag k = s.flag k := rfl
@[simp] theorem State.setReg_pcNext (s : State) (r : Reg) (v : Word) (i : Instr) : (s.setReg r v).pcNext i = s.pcNext i := rfl
@[simp] theorem State.setPc_reg (s : State) (v : Word) (q : Reg) : (s.setPc v).reg q = s.reg q := rfl
@[simp] theorem State.setPc_flag (s : State) (v : Word) (k : Flag) : (s.setPc v).flag k = s.flag k := rfl
@[simp] theorem State.setSp_reg (s : State) (v : Word) (q : Reg) : (s.setSp v).reg q = s.reg q := rfl
@[simp] theorem State.setSp_flag (s : State) (v : Word) (k : Flag) : (s.setSp v).flag k = s.flag k := rfl
@[simp] theorem State.setSp_pcNext (s : State) (v : Word) (i : Instr) : (s.setSp v).pcNext i = s.pcNext i := rfl
@[simp] theorem State.setFlags_reg (s : State) (v : Word) (q : Reg) : (s.setFlags v).reg q = s.reg q := rfl
@[simp] theorem State.setFlags_pcNext (s : State) (v : Word) (i : Instr) : (s.setFlags v).pcNext i = s.pcNext i := rfl
@[simp] theorem State.setTick_reg (s : State) (v : Word) (q : Reg) : (s.setTick v).reg q = s.reg q := rfl
@[simp] theorem State.setTick_flag (s : State) (v : Word) (k : Flag) : (s.setTick v).flag k = s.flag k := rfl
@[simp] theorem State.setTick_pcNext (s : State) (v : Word) (i : Instr) : (s.setTick v).pcNext i = s.pcNext i := rfl
@[simp] theorem State.setCause_reg (s : State) (v : Word) (q : Reg) : (s.setCause v).reg q = s.reg q := rfl
@[simp] theorem State.setCause_flag (s : State) (v : Word) (k : Flag) : (s.setCause v).flag k = s.flag k := rfl
@[simp] theorem State.setCause_pcNext (s : State) (v : Word) (i : Instr) : (s.setCause v).pcNext i = s.pcNext i := rfl
@[simp] theorem State.setQovf_reg (s : State) (b : Bool) (q : Reg) : (s.setQovf b).reg q = s.reg q := rfl
@[simp] theorem State.setQovf_flag (s : State) (b : Bool) (k : Flag) : (s.setQovf b).flag k = s.flag k := rfl
@[simp] theorem State.setQovf_pcNext (s : State) (b : Bool) (i : Instr) : (s.setQovf b).pcNext i = s.pcNext i := rfl
@[simp] theorem State.setRunState_reg (s : State) (r : RunState) (q : Reg) : (s.setRunState r).reg q = s.reg q := rfl
@[simp] theorem State.setRunState_flag (s : State) (r : RunState) (k : Flag) : (s.setRunState r).flag k = s.flag k := rfl
@[simp] theorem State.setRunState_pcNext (s : State) (r : RunState) (i : Instr) : (s.setRunState r).pcNext i = s.pcNext i := rfl
@[simp] theorem State.setBrecov_reg (s : State) (b : Bool) (q : Reg) : (s.setBrecov b).reg q = s.reg q := rfl
@[simp] theorem State.setBrecov_flag (s : State) (b : Bool) (k : Flag) : (s.setBrecov b).flag k = s.flag k := rfl
@[simp] theorem State.setBrecov_pcNext (s : State) (b : Bool) (i : Instr) : (s.setBrecov b).pcNext i = s.pcNext i := rfl
@[simp] theorem State.setHctx_reg (s : State) (h : List DispatchClass) (q : Reg) : (s.setHctx h).reg q = s.reg q := rfl
@[simp] theorem State.setHctx_flag (s : State) (h : List DispatchClass) (k : Flag) : (s.setHctx h).flag k = s.flag k := rfl
@[simp] theorem State.setHctx_pcNext (s : State) (h : List DispatchClass) (i : Instr) : (s.setHctx h).pcNext i = s.pcNext i := rfl
@[simp] theorem State.setDiag_reg (s : State) (d : Diag) (q : Reg) : (s.setDiag d).reg q = s.reg q := rfl
@[simp] theorem State.setDiag_flag (s : State) (d : Diag) (k : Flag) : (s.setDiag d).flag k = s.flag k := rfl
@[simp] theorem State.setDiag_pcNext (s : State) (d : Diag) (i : Instr) : (s.setDiag d).pcNext i = s.pcNext i := rfl
@[simp] theorem State.setMem_reg (s : State) (m : Memory) (q : Reg) : (s.setMem m).reg q = s.reg q := rfl
@[simp] theorem State.setMem_flag (s : State) (m : Memory) (k : Flag) : (s.setMem m).flag k = s.flag k := rfl
@[simp] theorem State.setMem_pcNext (s : State) (m : Memory) (i : Instr) : (s.setMem m).pcNext i = s.pcNext i := rfl
@[simp] theorem State.setEnv_reg (s : State) (e : List (List Input)) (q : Reg) : (s.setEnv e).reg q = s.reg q := rfl
@[simp] theorem State.setEnv_flag (s : State) (e : List (List Input)) (k : Flag) : (s.setEnv e).flag k = s.flag k := rfl
@[simp] theorem State.setEnv_pcNext (s : State) (e : List (List Input)) (i : Instr) : (s.setEnv e).pcNext i = s.pcNext i := rfl
@[simp] theorem State.setEvq_reg (s : State) (l : List Byte) (q : Reg) : (s.setEvq l).reg q = s.reg q := rfl
@[simp] theorem State.setEvq_flag (s : State) (q : List Byte) (k : Flag) : (s.setEvq q).flag k = s.flag k := rfl
@[simp] theorem State.setEvq_pcNext (s : State) (q : List Byte) (i : Instr) : (s.setEvq q).pcNext i = s.pcNext i := rfl
@[simp] theorem State.busRead_reg (s : State) (a : Word) (q : Reg) : (s.busRead a).reg q = s.reg q := rfl
@[simp] theorem State.busRead_flag (s : State) (a : Word) (k : Flag) : (s.busRead a).flag k = s.flag k := rfl
@[simp] theorem State.busRead_pcNext (s : State) (a : Word) (i : Instr) : (s.busRead a).pcNext i = s.pcNext i := rfl
@[simp] theorem State.busWrite_reg (s : State) (a v : Word) (q : Reg) : (s.busWrite a v).reg q = s.reg q := rfl
@[simp] theorem State.busWrite_flag (s : State) (a v : Word) (k : Flag) : (s.busWrite a v).flag k = s.flag k := rfl
@[simp] theorem State.busWrite_pcNext (s : State) (a v : Word) (i : Instr) : (s.busWrite a v).pcNext i = s.pcNext i := rfl
@[simp] theorem State.countInstr_reg (s : State) (q : Reg) : (s.countInstr).reg q = s.reg q := rfl
@[simp] theorem State.countInstr_flag (s : State) (k : Flag) : (s.countInstr).flag k = s.flag k := rfl
@[simp] theorem State.countInstr_pcNext (s : State) (i : Instr) : (s.countInstr).pcNext i = s.pcNext i := rfl
@[simp] theorem State.recordFault_reg (s : State) (k : FaultKind) (q : Reg) : (s.recordFault k).reg q = s.reg q := rfl
@[simp] theorem State.recordFault_flag (s : State) (x : FaultKind) (k : Flag) : (s.recordFault x).flag k = s.flag k := rfl
@[simp] theorem State.recordFault_pcNext (s : State) (k : FaultKind) (i : Instr) : (s.recordFault k).pcNext i = s.pcNext i := rfl

@[simp] theorem State.flag_setFlags (s : State) (v : Word) (k : Flag) : (s.setFlags v).flag k = getFlag k v := rfl

end Sys2Proof.Machine
end

