-- ==== Sys2Proof/Laws/Ops.lean ====
section
/-! SUPPORT. For each shared operation, one lemma that says everything it can do. -/

namespace Sys2Proof.Machine

/-! ## Regions (R61) -/

theorem region_rom_iff (a : Word) : region a = .rom ↔ a.toNat < 0x4000 := by
  unfold region; repeat' split
  all_goals simp_all

theorem region_ram_iff (a : Word) : region a = .ram ↔ 0x4000 ≤ a.toNat ∧ a.toNat < 0xE000 := by
  unfold region; repeat' split
  all_goals simp_all

theorem region_mmio_iff (a : Word) : region a = .mmio ↔ 0xE000 ≤ a.toNat ∧ a.toNat < 0xF000 := by
  unfold region; repeat' split
  all_goals simp_all
  all_goals omega

theorem region_diag_iff (a : Word) : region a = .diag ↔ 0xF000 ≤ a.toNat ∧ a.toNat < 0xF100 := by
  unfold region; repeat' split
  all_goals simp_all
  all_goals omega

theorem region_reserved_iff (a : Word) : region a = .reserved ↔ 0xF100 ≤ a.toNat := by
  unfold region; repeat' split
  all_goals simp_all
  all_goals omega

theorem isOdd_iff (a : Word) : isOdd a = decide (a.toNat % 2 = 1) := by
  simp [isOdd, BitVec.getLsbD, Nat.testBit_zero]

/-! ## Accesses -/

/-- Everything a data read can do (R70). -/
theorem memRead_ok {a v : Word} {s t : State} (h : memRead a s = .ok (v, t)) :
    isOdd a = false ∧
      (((region a = .rom ∨ region a = .ram) ∧ v = s.mem.readWord a ∧ t = s) ∨
        (region a = .mmio ∧ v = s.deviceAnswer a ∧ t = s.busRead a) ∨
        (region a = .diag ∧ v = Config.diagRead s.diag s.inhibit a ∧ t = s)) := by
  unfold memRead at h
  split at h
  · cases h
  · next ho =>
    refine ⟨by simpa using ho, ?_⟩
    split at h
    all_goals first | (cases h; done) | skip
    all_goals (cases h; simp [*])

/-- A data read that succeeds, from its conditions (R62, R70). -/
theorem memRead_of_legal {a : Word} (s : State) (ho : isOdd a = false) (hr : region a ≠ .reserved) :
    ∃ v t, memRead a s = .ok (v, t) := by
  unfold memRead
  rw [if_neg (by simp [ho])]
  cases h : region a with
  | rom => exact ⟨_, _, rfl⟩
  | ram => exact ⟨_, _, rfl⟩
  | mmio => exact ⟨_, _, rfl⟩
  | diag => exact ⟨_, _, rfl⟩
  | reserved => exact absurd h hr

/-- Everything a data write can do (R71, R79). -/
theorem memWrite_ok {a v : Word} {s t : State} (h : memWrite a v s = .ok t) :
    isOdd a = false ∧
      ((region a = .ram ∧ t = s.setMem (s.mem.writeWord a v)) ∨ (region a = .mmio ∧ t = s.busWrite a v)) := by
  unfold memWrite at h
  split at h
  · cases h
  · next ho =>
    refine ⟨by simpa using ho, ?_⟩
    split at h
    all_goals first | (cases h; done) | skip
    all_goals (cases h; simp [*])

/-- A data write that succeeds, from its conditions (R62, R71). -/
theorem memWrite_of_legal {a : Word} (v : Word) (s : State) (ho : isOdd a = false)
    (hr : region a = .ram ∨ region a = .mmio) : ∃ t, memWrite a v s = .ok t := by
  unfold memWrite
  rw [if_neg (by simp [ho])]
  cases hr with
  | inl h => rw [h]; exact ⟨_, rfl⟩
  | inr h => rw [h]; exact ⟨_, rfl⟩

/-- Everything an MMIO read can do (R72). -/
theorem mmioRead_ok {a v : Word} {s t : State} (h : mmioRead a s = .ok (v, t)) :
    mmioFault a = none ∧ v = s.deviceAnswer a ∧ t = s.busRead a := by
  unfold mmioRead at h
  split at h
  · cases h
  · next hm => cases h; exact ⟨hm, rfl, rfl⟩

/-- Everything an MMIO write can do (R72). -/
theorem mmioWrite_ok {a v : Word} {s t : State} (h : mmioWrite a v s = .ok t) :
    mmioFault a = none ∧ t = s.busWrite a v := by
  unfold mmioWrite at h
  split at h
  · cases h
  · next hm => cases h; exact ⟨hm, rfl⟩

theorem mmioFault_none_iff (a : Word) : mmioFault a = none ↔ isOdd a = false ∧ region a = .mmio := by
  unfold mmioFault
  split
  · simp_all
  · split <;> simp_all

/-- Everything a push can do (R220). -/
theorem pushWord_ok {v : Word} {s t : State} (h : pushWord v s = .ok t) :
    ∃ u, memWrite (s.sp - 2#16) v s = .ok u ∧ t = u.setSp (s.sp - 2#16) := by
  unfold pushWord at h
  split at h
  · next u hu => cases h; exact ⟨u, hu, rfl⟩
  · cases h

/-- Everything a pop can do (R220). -/
theorem popWord_ok {v : Word} {s t : State} (h : popWord s = .ok (v, t)) :
    ∃ u, memRead s.sp s = .ok (v, u) ∧ t = u.setSp (s.sp + 2#16) := by
  unfold popWord at h
  split at h
  · next u hu => cases h; exact ⟨_, hu, rfl⟩
  · cases h

/-! ## TICK and the budget (R290) -/

theorem budgetCheck_under {s : State} (h : s.tick.toNat < budget) : budgetCheck s = s := by
  unfold budgetCheck; rw [if_neg (by omega)]

theorem budgetCheck_over {s : State} (h : budget ≤ s.tick.toNat) :
    budgetCheck s = (s.recordFault .budget).setRunState (budgetHalt s.brecov) := by
  unfold budgetCheck; rw [if_pos h]

theorem charge_under {n : Nat} {s : State} (h : (s.tick + BitVec.ofNat 16 n).toNat < budget) :
    charge n s = s.setTick (s.tick + BitVec.ofNat 16 n) := budgetCheck_under h

theorem charge_over {n : Nat} {s : State} (h : budget ≤ (s.tick + BitVec.ofNat 16 n).toNat) :
    charge n s = ((s.setTick (s.tick + BitVec.ofNat 16 n)).recordFault .budget).setRunState
      (budgetHalt s.brecov) := budgetCheck_over h

@[simp] theorem charge_regs (n : Nat) (s : State) : (charge n s).regs = s.regs := by
  unfold charge budgetCheck; split <;> rfl
@[simp] theorem charge_pc (n : Nat) (s : State) : (charge n s).pc = s.pc := by
  unfold charge budgetCheck; split <;> rfl
@[simp] theorem charge_sp (n : Nat) (s : State) : (charge n s).sp = s.sp := by
  unfold charge budgetCheck; split <;> rfl
@[simp] theorem charge_flags (n : Nat) (s : State) : (charge n s).flags = s.flags := by
  unfold charge budgetCheck; split <;> rfl
@[simp] theorem charge_cap (n : Nat) (s : State) : (charge n s).cap = s.cap := by
  unfold charge budgetCheck; split <;> rfl
@[simp] theorem charge_cause (n : Nat) (s : State) : (charge n s).cause = s.cause := by
  unfold charge budgetCheck; split <;> rfl
@[simp] theorem charge_evp (n : Nat) (s : State) : (charge n s).evp = s.evp := by
  unfold charge budgetCheck; split <;> rfl
@[simp] theorem charge_evq (n : Nat) (s : State) : (charge n s).evq = s.evq := by
  unfold charge budgetCheck; split <;> rfl
@[simp] theorem charge_qovf (n : Nat) (s : State) : (charge n s).qovf = s.qovf := by
  unfold charge budgetCheck; split <;> rfl
@[simp] theorem charge_brecov (n : Nat) (s : State) : (charge n s).brecov = s.brecov := by
  unfold charge budgetCheck; split <;> rfl
@[simp] theorem charge_hctx (n : Nat) (s : State) : (charge n s).hctx = s.hctx := by
  unfold charge budgetCheck; split <;> rfl
@[simp] theorem charge_inhibit (n : Nat) (s : State) : (charge n s).inhibit = s.inhibit := by
  unfold charge budgetCheck; split <;> rfl
@[simp] theorem charge_mem (n : Nat) (s : State) : (charge n s).mem = s.mem := by
  unfold charge budgetCheck; split <;> rfl
@[simp] theorem charge_bus (n : Nat) (s : State) : (charge n s).bus = s.bus := by
  unfold charge budgetCheck; split <;> rfl
@[simp] theorem charge_draws (n : Nat) (s : State) : (charge n s).draws = s.draws := by
  unfold charge budgetCheck; split <;> rfl
@[simp] theorem charge_env (n : Nat) (s : State) : (charge n s).env = s.env := by
  unfold charge budgetCheck; split <;> rfl
@[simp] theorem charge_tick (n : Nat) (s : State) : (charge n s).tick = s.tick + BitVec.ofNat 16 n := by
  unfold charge budgetCheck; split <;> rfl

/-- RUNSTATE after a charge (R290). -/
theorem charge_runState (n : Nat) (s : State) :
    (charge n s).runState =
      if budget ≤ (s.tick + BitVec.ofNat 16 n).toNat then budgetHalt s.brecov
      else s.runState := by
  unfold charge budgetCheck; split <;> rename_i h <;> simp at h <;> simp [h]

/-- DIAG after a charge (R290). -/
theorem charge_diag (n : Nat) (s : State) :
    (charge n s).diag =
      if budget ≤ (s.tick + BitVec.ofNat 16 n).toNat then s.diag.record .budget s.pc (s.tick + BitVec.ofNat 16 n)
      else s.diag := by
  unfold charge budgetCheck; split <;> rename_i h <;> simp at h <;> simp [h]

@[simp] theorem retire_regs (n : Nat) (s : State) : (retire n s).regs = s.regs := by simp [retire]
@[simp] theorem retire_pc (n : Nat) (s : State) : (retire n s).pc = s.pc := by simp [retire]
@[simp] theorem retire_sp (n : Nat) (s : State) : (retire n s).sp = s.sp := by simp [retire]
@[simp] theorem retire_flags (n : Nat) (s : State) : (retire n s).flags = s.flags := by simp [retire]
@[simp] theorem retire_cap (n : Nat) (s : State) : (retire n s).cap = s.cap := by simp [retire]
@[simp] theorem retire_cause (n : Nat) (s : State) : (retire n s).cause = s.cause := by simp [retire]
@[simp] theorem retire_evp (n : Nat) (s : State) : (retire n s).evp = s.evp := by simp [retire]
@[simp] theorem retire_evq (n : Nat) (s : State) : (retire n s).evq = s.evq := by simp [retire]
@[simp] theorem retire_qovf (n : Nat) (s : State) : (retire n s).qovf = s.qovf := by simp [retire]
@[simp] theorem retire_brecov (n : Nat) (s : State) : (retire n s).brecov = s.brecov := by simp [retire]
@[simp] theorem retire_hctx (n : Nat) (s : State) : (retire n s).hctx = s.hctx := by simp [retire]
@[simp] theorem retire_inhibit (n : Nat) (s : State) : (retire n s).inhibit = s.inhibit := by simp [retire]
@[simp] theorem retire_mem (n : Nat) (s : State) : (retire n s).mem = s.mem := by simp [retire]
@[simp] theorem retire_bus (n : Nat) (s : State) : (retire n s).bus = s.bus := by simp [retire]
@[simp] theorem retire_draws (n : Nat) (s : State) : (retire n s).draws = s.draws := by simp [retire]
@[simp] theorem retire_env (n : Nat) (s : State) : (retire n s).env = s.env := by simp [retire]
@[simp] theorem retire_tick (n : Nat) (s : State) : (retire n s).tick = s.tick + BitVec.ofNat 16 n := by simp [retire]
@[simp] theorem retire_reg (n : Nat) (s : State) (q : Reg) : (retire n s).reg q = s.reg q := by simp [State.reg_def]
@[simp] theorem charge_reg (n : Nat) (s : State) (q : Reg) : (charge n s).reg q = s.reg q := by simp [State.reg_def]

/-- RUNSTATE after a retirement (R262 step 4, R290). -/
theorem retire_runState (n : Nat) (s : State) :
    (retire n s).runState =
      if budget ≤ (s.tick + BitVec.ofNat 16 n).toNat then budgetHalt s.brecov
      else s.runState := by
  simp [retire, charge_runState]

/-- DIAG after a retirement (R262 step 4, R290). -/
theorem retire_diag (n : Nat) (s : State) :
    (retire n s).diag =
      if budget ≤ (s.tick + BitVec.ofNat 16 n).toNat then
        s.diag.countInstr.record .budget s.pc (s.tick + BitVec.ofNat 16 n)
      else s.diag.countInstr := by
  simp [retire, charge_diag]

/-! ## Dispatch and return -/

/-- Everything a dispatch entry can do (R270). -/
theorem enter_ok {cls : DispatchClass} {code : Byte} {resume : Word} {s t : State} (h : enter cls code resume s = .ok t) :
    ∃ s1 s2 s3,
      pushWord resume ((s.setCause (causeWord cls code)).setReg .r0 (causeWord cls code &&& 0x00FF#16)) = .ok s1 ∧
      pushWord s.flags s1 = .ok s2 ∧ pushWord (causeWord cls code) s2 = .ok s3 ∧
      t = enterHandler cls s.flags s.hctx s3 := by
  unfold enter at h
  split at h
  · cases h
  · next s1 h1 =>
    split at h
    · cases h
    · next s2 h2 =>
      split at h
      · cases h
      · next s3 h3 => cases h; exact ⟨s1, s2, s3, h1, h2, h3, rfl⟩

/-- Everything ERET's pops can do (R252). -/
theorem leaveHandler_ok {s t : State} (h : leaveHandler s = .ok t) :
    ∃ cls ctx c s1 w s2 p s3,
      s.hctx = cls :: ctx ∧ memRead s.sp s = .ok (c, s1) ∧ memRead (s.sp + 2#16) s1 = .ok (w, s2) ∧
      memRead (s.sp + 4#16) s2 = .ok (p, s3) ∧
      t = ((((s3.setSp (s.sp + 6#16)).setCause c).setFlags (poppedFlags w)).setPc p).setHctx ctx := by
  unfold leaveHandler at h
  split at h
  · cases h
  · next cls ctx hc =>
    split at h
    · cases h
    · next c s1 h1 =>
      split at h
      · cases h
      · next w s2 h2 =>
        split at h
        · cases h
        · next p s3 h3 => cases h; exact ⟨cls, ctx, c, s1, w, s2, p, s3, hc, h1, h2, h3, rfl⟩

/-- Everything raising a fault can do (R280, R282). -/
theorem raiseFault_cases (k : FaultKind) (base : Nat) (s : State) :
    raiseFault k base s = (s.recordFault k).setRunState .haltPerm ∨
      (s.hctx.contains .fault = false ∧ ∃ t, enter .fault (Config.faultCode k) s.pc (s.recordFault k) = .ok t ∧
        raiseFault k base s = charge (base + dispatchCost) t) := by
  unfold raiseFault
  split
  · exact Or.inl rfl
  · next hc =>
    split
    · next t ht => exact Or.inr ⟨by simpa using hc, t, ht, rfl⟩
    · exact Or.inl rfl

/-- Everything issuing a software trap can do (R143, R144, R273). -/
theorem raiseTrap_cases (i : Instr) (id : Byte) (s : State) :
    (∃ t, enter .trap id (s.pcNext i) s = .ok t ∧ raiseTrap i id s = charge (i.baseCost + dispatchCost) t.countInstr) ∨
      (∃ k, enter .trap id (s.pcNext i) s = .error k ∧ raiseTrap i id s = raiseFault k i.baseCost s) := by
  unfold raiseTrap
  split
  · next t ht => exact Or.inl ⟨t, ht, rfl⟩
  · next k hk => exact Or.inr ⟨k, hk, rfl⟩

/-- Everything an EVENT dispatch can do (R285). -/
theorem dispatchEvent_cases (id : Byte) (rest : List Byte) (s : State) :
    (∃ t, enter .event id s.pc s = .ok t ∧ dispatchEvent id rest s = charge dispatchCost (t.setEvq rest)) ∨
      (∃ k, enter .event id s.pc s = .error k ∧ dispatchEvent id rest s = raiseFault k 0 s) := by
  unfold dispatchEvent
  split
  · next t ht => exact Or.inl ⟨t, ht, rfl⟩
  · next k hk => exact Or.inr ⟨k, hk, rfl⟩

/-! ## Families -/

/-- Everything a LOAD can do (R151). -/
theorem loadFrom_cases (i : Instr) (rd : Reg) (ea : Word) (s : State) :
    (∃ v t, memRead ea s = .ok (v, t) ∧
      loadFrom i rd ea s = .next (retire i.baseCost (((t.setReg rd v).setFlags (moveFlags v s.flags)).setPc (s.pcNext i)))) ∨
      (∃ k, memRead ea s = .error k ∧ loadFrom i rd ea s = .next (raiseFault k i.baseCost s)) := by
  unfold loadFrom
  split
  · next k hk => exact Or.inr ⟨k, hk, rfl⟩
  · next v t ht => exact Or.inl ⟨v, t, ht, rfl⟩

/-- Everything a STORE can do (R152). -/
theorem storeTo_cases (i : Instr) (rd : Reg) (ea : Word) (s : State) :
    (∃ t, memWrite ea (s.reg rd) s = .ok t ∧ storeTo i rd ea s = .next (retire i.baseCost (t.setPc (s.pcNext i)))) ∨
      (∃ k, memWrite ea (s.reg rd) s = .error k ∧ storeTo i rd ea s = .next (raiseFault k i.baseCost s)) := by
  unfold storeTo
  split
  · next k hk => exact Or.inr ⟨k, hk, rfl⟩
  · next t ht => exact Or.inl ⟨t, ht, rfl⟩

end Sys2Proof.Machine
end

