-- ==== Sys2Proof/Laws/Claims.lean ====
section
/-! SUPPORT. The operations of the machine in the words of Sys2Proof/Safety.lean: one lemma for each that says what it leaves. -/

namespace Sys2Proof.Machine

/-! ## The diagnostics record (R46) -/

theorem satInc_toNat (v : Word) : (satInc v).toNat = min 0xFFFF (v.toNat + 1) := by
  unfold satInc
  split
  · next h => subst h; decide
  · next h => bv_omega

theorem FaultCounts.get_bump (c : FaultCounts) (k q : FaultKind) :
    (c.bump k).get q = if q = k then satInc (c.get k) else c.get q := by
  cases k <;> cases q <;> rfl

theorem recorded_record (k : FaultKind) (pc tick : Word) (d : Diag) : Recorded k pc tick d (d.record k pc tick) where
  code := rfl
  pc := rfl
  tick := rfl
  count := by rw [← satInc_toNat]; exact congrArg _ ((FaultCounts.get_bump _ k k).trans (if_pos rfl))
  others _ h := (FaultCounts.get_bump _ _ _).trans (if_neg h)
  instrs := rfl

theorem instrCounted_countInstr (d : Diag) : InstrCounted d d.countInstr :=
  ⟨satInc_toNat _, rfl, rfl, rfl, fun _ => rfl⟩

/-! ## Cycles (R290) -/

/-- Cycles added to a state whose TICK and BRECOV are those of `s`. -/
theorem charged_charge {n : Nat} {s u : State} (ht : u.tick = s.tick) (hb : u.brecov = s.brecov) :
    Charged n u.runState u.diag s (charge n u) := by
  by_cases h : budget ≤ (u.tick + BitVec.ofNat 16 n).toNat
  · have e := charge_over h
    refine ⟨by simp [ht], fun h' => ?_, fun _ => ?_⟩
    · rw [charge_tick] at h'; exact absurd h (by unfold budget; omega)
    · rw [e, ← hb]; cases hb' : u.brecov <;> exact ⟨rfl, rfl⟩
  · have e := charge_under (Nat.lt_of_not_le h)
    refine ⟨by simp [ht], fun _ => ?_, fun h' => ?_⟩
    · rw [e]; exact ⟨rfl, rfl⟩
    · rw [charge_tick] at h'; exact absurd h' (by unfold budget at h; omega)

/-- The retirement of a state that differs from `s` in nothing a retirement looks at. -/
theorem retired_retire {n : Nat} {s u : State} (ht : u.tick = s.tick) (hb : u.brecov = s.brecov)
    (hr : u.runState = s.runState) (hd : u.diag = s.diag) : Retired n s (retire n u) := by
  have h : Charged n u.countInstr.runState u.countInstr.diag s (charge n u.countInstr) := charged_charge ht hb
  have e1 : u.countInstr.runState = s.runState := hr
  have e2 : u.countInstr.diag = s.diag.countInstr := by show u.diag.countInstr = _; rw [hd]
  rw [e1, e2] at h
  exact h

/-! ## Legal accesses (R61, R70 to R72) -/

theorem region_lt_rom {a : Word} : region a = .rom ∨ region a = .ram ↔ a.toNat < 0xE000 := by
  rw [region_rom_iff, region_ram_iff]; omega

theorem fetchWord_legal {a : Word} {s : State} (h : FetchLegal a) :
    fetchWord a s = .ok (s.mem.read a.toNat ++ s.mem.read (a.toNat + 1)) := by
  unfold fetchWord
  rw [if_neg (by rw [isOdd_iff]; simp [h.1])]
  rcases region_lt_rom.2 h.2 with hr | hr <;> rw [hr] <;> rfl

theorem fetchWord_illegal {a : Word} {s : State} (h : ¬ FetchLegal a) : fetchWord a s = .error .fetch := by
  unfold fetchWord
  split
  · rfl
  · next ho =>
    rw [isOdd_iff] at ho
    have hr : ¬ (region a = .rom ∨ region a = .ram) := by
      rw [region_lt_rom]; intro hl; exact h ⟨by simpa using ho, hl⟩
    cases h' : region a <;> simp_all

theorem memRead_illegal {a : Word} {s : State} (h : ¬ ReadLegal a) : memRead a s = .error (accessFault a) := by
  unfold memRead accessFault oddKind
  rw [isOdd_iff]
  by_cases ho : a.toNat % 2 = 1
  · simp only [ho, decide_true, if_true, region_mmio_iff]
  · have hr : region a = .reserved := by rw [region_reserved_iff]; by_contra hl; exact h ⟨by omega, by omega⟩
    simp [ho, hr]

theorem memWrite_illegal {a v : Word} {s : State} (h : ¬ WriteLegal a) : memWrite a v s = .error (accessFault a) := by
  unfold memWrite accessFault oddKind
  rw [isOdd_iff]
  by_cases ho : a.toNat % 2 = 1
  · simp only [ho, decide_true, if_true, region_mmio_iff]
  · have h1 : region a ≠ .ram := by rw [Ne, region_ram_iff]; intro hl; exact h ⟨by omega, by omega, by omega⟩
    have h2 : region a ≠ .mmio := by rw [Ne, region_mmio_iff]; intro hl; exact h ⟨by omega, by omega, by omega⟩
    cases hr : region a <;> simp_all

theorem mmioFault_legal {a : Word} (h : MmioLegal a) : mmioFault a = none := by
  rw [mmioFault_none_iff, isOdd_iff, region_mmio_iff]; exact ⟨by simp [h.1], h.2⟩

theorem mmioFault_illegal {a : Word} (h : ¬ MmioLegal a) : mmioFault a = some (mmioAccessFault a) := by
  unfold mmioFault mmioAccessFault
  rw [isOdd_iff]
  by_cases ho : a.toNat % 2 = 1
  · simp [ho]
  · have h2 : region a ≠ .mmio := by rw [Ne, region_mmio_iff]; intro hl; exact h ⟨by omega, hl⟩
    simp [ho, h2]

/-! ## What an access leaves (R70, R71, R75, R79) -/

/-- What no data access touches: everything but memory, the devices, the voter's questions and INHIBIT. -/
structure SameBut (s t : State) : Prop where
  regs : t.regs = s.regs
  pc : t.pc = s.pc
  sp : t.sp = s.sp
  flags : t.flags = s.flags
  tick : t.tick = s.tick
  cap : t.cap = s.cap
  cause : t.cause = s.cause
  evp : t.evp = s.evp
  evq : t.evq = s.evq
  qovf : t.qovf = s.qovf
  runState : t.runState = s.runState
  brecov : t.brecov = s.brecov
  hctx : t.hctx = s.hctx
  diag : t.diag = s.diag
  env : t.env = s.env

theorem memRead_legal {a : Word} (s : State) (h : ReadLegal a) :
    ∃ v t, memRead a s = .ok (v, t) ∧ DataRead s.diag a v s t ∧ SameBut s t := by
  have ho : isOdd a = false := by rw [isOdd_iff]; simp [h.1]
  have hr : region a ≠ .reserved := by rw [Ne, region_reserved_iff]; omega
  obtain ⟨v, t, e⟩ := memRead_of_legal s ho hr
  refine ⟨v, t, e, ?_⟩
  rcases memRead_ok e with ⟨-, ⟨hr, hv, ht⟩ | ⟨hr, hv, ht⟩ | ⟨hr, hv, ht⟩⟩
  · rw [region_lt_rom] at hr; subst ht
    exact ⟨⟨fun _ => rfl, rfl, fun _ => ⟨hv, rfl, rfl⟩, fun h1 _ => absurd hr (by omega), fun h1 => absurd hr (by omega)⟩,
      by constructor <;> rfl⟩
  · rw [region_mmio_iff] at hr; subst ht
    exact ⟨⟨fun _ => rfl, rfl, fun h1 => absurd hr.1 (by omega), fun _ _ => ⟨hv, by rw [hv]; rfl, rfl⟩,
      fun h1 => absurd hr.2 (by omega)⟩, by constructor <;> rfl⟩
  · rw [region_diag_iff] at hr; subst ht
    exact ⟨⟨fun _ => rfl, rfl, fun h1 => absurd hr.1 (by omega), fun _ h2 => absurd hr.1 (by omega),
      fun _ => ⟨hv, rfl, rfl⟩⟩, by constructor <;> rfl⟩

theorem busWrite_written (a v : Word) (s : State) : DeviceWritten a v s (s.busWrite a v) ∧ SameBut s (s.busWrite a v) := by
  refine ⟨⟨fun _ => rfl, rfl, fun h => ?_, fun h => ?_⟩, by constructor <;> rfl⟩
  · have h' : s.voterAllows a v = true := h
    simp [State.busWrite, h']
  · have h' : s.voterAllows a v = false := h
    simp [State.busWrite, h']

theorem memWrite_legal {a : Word} (v : Word) (s : State) (h : WriteLegal a) :
    ∃ t, memWrite a v s = .ok t ∧ DataWritten a v s t ∧ SameBut s t := by
  have ho : isOdd a = false := by rw [isOdd_iff]; simp [h.1]
  have hr : region a = .ram ∨ region a = .mmio := by rw [region_ram_iff, region_mmio_iff]; omega
  obtain ⟨t, e⟩ := memWrite_of_legal v s ho hr
  refine ⟨t, e, ?_⟩
  rcases memWrite_ok e with ⟨-, ⟨hr, ht⟩ | ⟨hr, ht⟩⟩
  · rw [region_ram_iff] at hr; subst ht
    refine ⟨⟨fun _ => ⟨Memory.read_writeWord_hi _ _ _, Memory.read_writeWord_lo _ _ _, ?_, rfl, rfl, rfl⟩,
      fun h1 => absurd hr.2 (by omega)⟩, by constructor <;> rfl⟩
    intro x h0 h1; exact Memory.read_writeWord_other _ _ _ _ h0 h1
  · rw [region_mmio_iff] at hr; subst ht
    exact ⟨⟨fun h1 => absurd hr.1 (by omega), fun _ => (busWrite_written a v s).1⟩, (busWrite_written a v s).2⟩

/-- A data write leaves every byte of memory outside the written word. -/
theorem DataWritten.same_mem_but {a v : Word} {s t : State} (h : DataWritten a v s t) : SameMemBut a s t := by
  by_cases hl : a.toNat < 0xE000
  · exact (h.ram hl).2.2.1
  · exact fun x _ _ => (h.device (by omega)).mem x

/-! ## FLAGS (R26, R27) -/

theorem beq_zero_toNat (r : Word) : (r == 0#16) = decide (r.toNat = 0) := by
  rw [Bool.eq_iff_iff]; simp [← BitVec.toNat_inj]

theorem msb_toInt (r : Word) : r.getLsbD 15 = decide (r.toInt < 0) := by
  have h : r.getLsbD 15 = r.msb := by rw [BitVec.msb_eq_getLsbD_last]
  rw [h, BitVec.msb_eq_toInt]

theorem flagsOf_setZNCV {r : Word} {c v : Bool} {s t : State} (h : t.flags = setZNCV r c v s.flags) : FlagsOf r c v s t := by
  refine ⟨?_, ?_, ?_, ?_, fun j h4 hj => ?_⟩
  · show t.flags.getLsbD 0 = _; rw [h, getLsbD_setZNCV _ _ _ _ _ (by decide)]; exact beq_zero_toNat r
  · show t.flags.getLsbD 1 = _; rw [h, getLsbD_setZNCV _ _ _ _ _ (by decide)]; exact msb_toInt r
  · show t.flags.getLsbD 2 = _; rw [h, getLsbD_setZNCV _ _ _ _ _ (by decide)]; rfl
  · show t.flags.getLsbD 3 = _; rw [h, getLsbD_setZNCV _ _ _ _ _ (by decide)]; rfl
  · rw [h, getLsbD_setZNCV _ _ _ _ _ hj, if_neg (by omega), if_neg (by omega), if_neg (by omega), if_neg (by omega)]

/-! ## Dispatch (R270 to R273) -/

/-- Every field but memory, the devices, the voter's questions, INHIBIT and SP. -/
theorem pushWord_legal {v : Word} {s : State} (h : WriteLegal (s.sp - 2#16)) :
    ∃ u t, memWrite (s.sp - 2#16) v s = .ok u ∧ t = u.setSp (s.sp - 2#16) ∧ pushWord v s = .ok t ∧
      DataWritten (s.sp - 2#16) v s u ∧ SameBut s u := by
  obtain ⟨u, e, hw, hs⟩ := memWrite_legal v s h
  exact ⟨u, _, e, rfl, by simp [pushWord, e], hw, hs⟩

theorem pushWord_illegal {v : Word} {s : State} (h : ¬ WriteLegal (s.sp - 2#16)) :
    pushWord v s = .error (accessFault (s.sp - 2#16)) := by
  simp [pushWord, memWrite_illegal h]

theorem popWord_legal {s : State} (h : ReadLegal s.sp) :
    ∃ v u t, t = u.setSp (s.sp + 2#16) ∧ popWord s = .ok (v, t) ∧ DataRead s.diag s.sp v s u ∧ SameBut s u := by
  obtain ⟨v, u, e, hr, hs⟩ := memRead_legal s h
  exact ⟨v, u, _, rfl, by simp [popWord, e], hr, hs⟩

theorem popWord_illegal {s : State} (h : ¬ ReadLegal s.sp) : popWord s = .error (accessFault s.sp) := by
  simp [popWord, memRead_illegal h]

/-- A data write speaks only of memory and the devices: it may be read between states that agree on these. -/
theorem DataWritten.congr {a v : Word} {s s' t t' : State} (h : DataWritten a v s t)
    (hs : s'.mem = s.mem ∧ s'.bus = s.bus ∧ s'.draws = s.draws ∧ s'.inhibit = s.inhibit)
    (ht : t'.mem = t.mem ∧ t'.bus = t.bus ∧ t'.draws = t.draws ∧ t'.inhibit = t.inhibit) : DataWritten a v s' t' := by
  obtain ⟨h1, h2⟩ := h
  obtain ⟨s1, s2, s3, s4⟩ := hs
  obtain ⟨t1, t2, t3, t4⟩ := ht
  refine ⟨fun hl => ?_, fun hl => ?_⟩
  · obtain ⟨x1, x2, x3, x4, x5, x6⟩ := h1 hl
    refine ⟨by rw [t1, x1], by rw [t1, x2], fun x y z => by rw [t1, s1, x3 x y z], by rw [t2, s2, x4], by rw [t3, s3, x5],
      by rw [t4, s4, x6]⟩
  · obtain ⟨x1, x2, x3, x4⟩ := h2 hl
    refine ⟨fun x => by rw [t1, s1, x1 x], by rw [t3, s3, x2], fun h => ?_, fun h => ?_⟩
    · rw [s2, s3] at h; rw [t2, s2, t4, s4]; exact x3 h
    · rw [s2, s3] at h; rw [t2, s2, t4]; exact x4 h

theorem causeWord_eq (cls : DispatchClass) (code : Byte) : causeWord cls code = causeOf cls code := by
  cases cls <;> revert code <;> decide

theorem causeWord_low (cls : DispatchClass) (code : Byte) : causeWord cls code &&& 0x00FF#16 = code.setWidth 16 := by
  cases cls <;> revert code <;> decide

/-- A word at or above 0x4000 written at an even address leaves ROM as it was. -/
theorem DataWritten.rom {a v : Word} {s t : State} (h : DataWritten a v s t) (ha : 0x4000 ≤ a.toNat) (x : Nat)
    (hx : x < 0x4000) : t.mem.read x = s.mem.read x := h.same_mem_but x (by omega) (by omega)

theorem SameBut.trans_setSp {s u v : State} (w : Word) (h1 : SameBut s u) (h2 : SameBut (u.setSp w) v) :
    SameBut s (v.setSp s.sp) :=
  ⟨h2.regs.trans h1.regs, h2.pc.trans h1.pc, rfl, h2.flags.trans h1.flags, h2.tick.trans h1.tick, h2.cap.trans h1.cap,
    h2.cause.trans h1.cause, h2.evp.trans h1.evp, h2.evq.trans h1.evq, h2.qovf.trans h1.qovf, h2.runState.trans h1.runState,
    h2.brecov.trans h1.brecov, h2.hctx.trans h1.hctx, h2.diag.trans h1.diag, h2.env.trans h1.env⟩

/-- Three pushes that can be made (R270 steps 3 to 5). -/
theorem pushes_legal (x y z : Word) {s : State} (h : PushesLegal s.sp) :
    ∃ u1 u2 u3, pushWord x s = .ok (u1.setSp (s.sp - 2#16)) ∧
      pushWord y (u1.setSp (s.sp - 2#16)) = .ok (u2.setSp (s.sp - 4#16)) ∧
      pushWord z (u2.setSp (s.sp - 4#16)) = .ok (u3.setSp (s.sp - 6#16)) ∧
      DataWritten (s.sp - 2#16) x s u1 ∧ DataWritten (s.sp - 4#16) y u1 u2 ∧ DataWritten (s.sp - 6#16) z u2 u3 ∧
      SameBut s (u3.setSp s.sp) := by
  obtain ⟨p1, p2, p3⟩ := h
  obtain ⟨u1, t1, -, rfl, q1, w1, k1⟩ := pushWord_legal (v := x) p1
  have sp1 : (u1.setSp (s.sp - 2#16)).sp - 2#16 = s.sp - 4#16 := by
    show s.sp - 2#16 - 2#16 = _; rw [BitVec.sub_sub]; rfl
  obtain ⟨u2, t2, -, rfl, q2, w2, k2⟩ := pushWord_legal (v := y) (s := u1.setSp (s.sp - 2#16)) (by rw [sp1]; exact p2)
  rw [sp1] at q2 w2
  have sp2 : (u2.setSp (s.sp - 4#16)).sp - 2#16 = s.sp - 6#16 := by
    show s.sp - 4#16 - 2#16 = _; rw [BitVec.sub_sub]; rfl
  obtain ⟨u3, t3, -, rfl, q3, w3, k3⟩ := pushWord_legal (v := z) (s := u2.setSp (s.sp - 4#16)) (by rw [sp2]; exact p3)
  rw [sp2] at q3 w3
  have k12 := k1.trans_setSp _ k2
  refine ⟨u1, u2, u3, q1, q2, q3, w1, w2.congr ⟨rfl, rfl, rfl, rfl⟩ ⟨rfl, rfl, rfl, rfl⟩,
    w3.congr ⟨rfl, rfl, rfl, rfl⟩ ⟨rfl, rfl, rfl, rfl⟩, ?_⟩
  exact ⟨k3.regs.trans k12.regs, k3.pc.trans k12.pc, rfl, k3.flags.trans k12.flags, k3.tick.trans k12.tick, k3.cap.trans k12.cap,
    k3.cause.trans k12.cause, k3.evp.trans k12.evp, k3.evq.trans k12.evq, k3.qovf.trans k12.qovf, k3.runState.trans k12.runState,
    k3.brecov.trans k12.brecov, k3.hctx.trans k12.hctx, k3.diag.trans k12.diag, k3.env.trans k12.env⟩

/-- A dispatch entry whose pushes can be made, as a state (R270). -/
theorem enter_legal_eq (cls : DispatchClass) (code : Byte) (resume : Word) {s : State} (h : PushesLegal s.sp) :
    ∃ u1 u2 u3, enter cls code resume s = .ok (enterHandler cls s.flags s.hctx (u3.setSp (s.sp - 6#16))) ∧
      DataWritten (s.sp - 2#16) resume s u1 ∧ DataWritten (s.sp - 4#16) s.flags u1 u2 ∧
      DataWritten (s.sp - 6#16) (causeOf cls code) u2 u3 ∧
      SameBut ((s.setCause (causeOf cls code)).setReg .r0 (code.setWidth 16)) (u3.setSp s.sp) := by
  obtain ⟨u1, u2, u3, q1, q2, q3, w1, w2, w3, k⟩ := pushes_legal resume s.flags (causeWord cls code)
    (s := (s.setCause (causeWord cls code)).setReg .r0 (causeWord cls code &&& 0x00FF#16)) h
  refine ⟨u1, u2, u3, ?_, w1.congr ⟨rfl, rfl, rfl, rfl⟩ ⟨rfl, rfl, rfl, rfl⟩, w2, ?_, ?_⟩
  · unfold enter
    rw [q1]
    dsimp only
    rw [q2]
    dsimp only
    rw [q3]
    rfl
  · rw [← causeWord_eq]; exact w3
  · rw [causeWord_low, causeWord_eq] at k; exact k

/-- A dispatch entry whose pushes can be made (R270, R272). -/
theorem enter_legal (cls : DispatchClass) (code : Byte) (resume : Word) {s : State} (h : PushesLegal s.sp) :
    ∃ t, enter cls code resume s = .ok t ∧ Dispatched cls code resume s t ∧ SameQueue s t ∧ t.tick = s.tick ∧
      t.runState = s.runState ∧ t.diag = s.diag := by
  obtain ⟨u1, u2, u3, e, w1, w2, w3, k⟩ := enter_legal_eq cls code resume h
  obtain ⟨p1, p2, p3⟩ := h
  refine ⟨_, e, ?_, ⟨k.evq, k.evp, k.qovf⟩, k.tick, k.runState, k.diag⟩
  have regs : ∀ q, u3.regs.get q = (s.regs.set .r0 (code.setWidth 16)).get q := fun q => congrArg (fun f => RegFile.get f q) k.regs
  have rom : ∀ x, x < 0x4000 → u3.mem.read x = s.mem.read x := fun x hx =>
    ((w3.rom p3.2.1 x hx).trans (w2.rom p2.2.1 x hx)).trans (w1.rom p1.2.1 x hx)
  constructor
  case cause => exact k.cause
  case handed => exact (regs .r0).trans rfl
  case regs =>
    intro q hq
    refine (regs q).trans ?_
    cases q <;> first | exact absurd rfl hq | rfl
  case stored =>
    refine ⟨⟨u1, u2, w1, w2, w3.congr ⟨rfl, rfl, rfl, rfl⟩ ⟨rfl, rfl, rfl, rfl⟩⟩, fun x hx => ?_⟩
    have a1 := hx _ (Or.inl rfl)
    have a2 := hx _ (Or.inr (Or.inl rfl))
    have a3 := hx _ (Or.inr (Or.inr rfl))
    exact ((w3.same_mem_but x a3.1 a3.2).trans (w2.same_mem_but x a2.1 a2.2)).trans (w1.same_mem_but x a1.1 a1.2)
  case sp => rfl
  case flagI => exact (getLsbD_entryFlags cls s.flags 4 (by decide)).trans rfl
  case flagF =>
    refine (getLsbD_entryFlags cls s.flags 5 (by decide)).trans ?_
    unfold State.flag getFlag
    by_cases hc : cls = .fault <;> simp [hc, Flag.bit]
  case flags =>
    intro j hj h4 h5
    refine (getLsbD_entryFlags cls s.flags j hj).trans ?_
    rw [if_neg h5, if_neg h4]
  case pc =>
    refine Eq.trans (b := u3.mem.readWord (vectorAddr cls)) rfl ?_
    unfold Memory.readWord wordOf handlerOf vectorAddr
    cases cls <;> dsimp only [BitVec.toNat_ofNat, Nat.reducePow, Nat.reduceMod, Nat.reduceAdd] <;>
      rw [rom _ (by decide), rom _ (by decide)] <;> rfl
  case context => rfl
  case fixed => exact ⟨k.cap, k.brecov, k.env⟩

/-- A dispatch entry one of whose pushes cannot be made (R273). -/
theorem enter_illegal (cls : DispatchClass) (code : Byte) (resume : Word) {s : State} (h : ¬ PushesLegal s.sp) :
    enter cls code resume s = .error (pushFault s.sp) := by
  unfold enter pushFault
  by_cases p1 : WriteLegal (s.sp - 2#16)
  · obtain ⟨u1, t1, -, rfl, q1, -, -⟩ := pushWord_legal (v := resume)
      (s := (s.setCause (causeWord cls code)).setReg .r0 (causeWord cls code &&& 0x00FF#16)) p1
    rw [q1, if_neg (not_not_intro p1)]
    have sp1 : (u1.setSp (s.sp - 2#16)).sp - 2#16 = s.sp - 4#16 := by
      show s.sp - 2#16 - 2#16 = _; rw [BitVec.sub_sub]; rfl
    by_cases p2 : WriteLegal (s.sp - 4#16)
    · obtain ⟨u2, t2, -, rfl, q2, -, -⟩ := pushWord_legal (v := s.flags) (s := u1.setSp (s.sp - 2#16)) (by rw [sp1]; exact p2)
      rw [sp1] at q2
      rw [if_neg (not_not_intro p2)]
      dsimp only [State.setReg_sp, State.setCause_sp]
      rw [q2]
      have sp2 : (u2.setSp (s.sp - 4#16)).sp - 2#16 = s.sp - 6#16 := by
        show s.sp - 4#16 - 2#16 = _; rw [BitVec.sub_sub]; rfl
      have p3 : ¬ WriteLegal (s.sp - 6#16) := fun p3 => h ⟨p1, p2, p3⟩
      dsimp only
      rw [pushWord_illegal (by rw [sp2]; exact p3), sp2]
    · rw [if_pos p2]
      dsimp only [State.setReg_sp, State.setCause_sp]
      rw [pushWord_illegal (by rw [sp1]; exact p2), sp1]
  · rw [if_pos p1, pushWord_illegal (by exact p1)]
    rfl

/-! ## Events posted (R284) -/

theorem posted_refl (s : State) : Posted [] s s := ⟨by simp, by simp, by simp⟩

/-- The first id is queued or latches QOVF; the others follow. -/
theorem posted_cons (id : Byte) (ids : List Byte) (s t : State) (h : Posted ids (enqueue id s) t) :
    Posted (id :: ids) s t := by
  obtain ⟨h1, h2, h3⟩ := h
  by_cases hl : s.evq.length < 4
  · have e : enqueue id s = s.setEvq (s.evq ++ [id]) := by unfold enqueue evqDepth; rw [if_pos hl]
    rw [e] at h1 h2 h3
    have t4 : 4 - s.evq.length = (4 - (s.evq.length + 1)) + 1 := by omega
    have h1' : t.evq = s.evq ++ (id :: ids).take (4 - s.evq.length) := by
      rw [h1, t4, List.take_succ_cons]; simp
    refine ⟨h1', ?_, ?_⟩
    · rw [h2, t4, List.take_succ_cons, if_neg (List.cons_ne_nil _ _)]
      split
      · next hn => rw [h1, hn, List.append_nil]; rfl
      · rfl
    · rw [h3]
      cases ids with
      | nil => simp; omega
      | cons a as => simp; congr 1; apply decide_eq_decide.mpr; omega
  · have e : enqueue id s = s.setQovf true := by unfold enqueue evqDepth; rw [if_neg hl]
    rw [e] at h1 h2 h3
    have t4 : 4 - s.evq.length = 0 := by omega
    refine ⟨?_, ?_, ?_⟩
    · rw [h1]; simp [t4]
    · rw [h2]; simp [t4]
    · rw [h3]; simp; omega

/-- Everything a list of posted events can do. -/
theorem posted_foldl (ids : List Byte) (s : State) : Posted ids s (ids.foldl (fun u id => enqueue id u) s) := by
  induction ids generalizing s with
  | nil => exact posted_refl s
  | cons id ids ih => exact posted_cons id ids s _ (ih _)

end Sys2Proof.Machine
end

