-- ==== Sys2Proof/Laws/Decode.lean ====
section
/-! SUPPORT. The decoder's shape: the extension word is copied into the form and decides nothing about it. -/

namespace Sys2Proof

/-- What the machine needs of a form before its extension word is known (30_encoding.md R110, 60_exceptions.md R274). -/
def formShape (i : Instr) : Nat × Nat := (i.extWords, i.baseCost)

theorem onlyIf_shape (b : Bool) {i j : Instr} (h : formShape i = formShape j) :
    (onlyIf b i).map formShape = (onlyIf b j).map formShape := by
  cases b
  · rfl
  · exact congrArg some h

theorem decodeControl_shape (rz az : Bool) (rd : Reg) (sub am : Nat) (x y : Word) :
    (decodeControl rz az rd sub am x).map formShape = (decodeControl rz az rd sub am y).map formShape := by
  unfold decodeControl
  split <;> first | exact onlyIf_shape _ rfl | rfl

theorem decodeMov_shape (az : Bool) (rd ra : Reg) (sub am : Nat) (x y : Word) :
    (decodeMov az rd ra sub am x).map formShape = (decodeMov az rd ra sub am y).map formShape := by
  unfold decodeMov
  split <;> first | exact onlyIf_shape _ rfl | rfl

theorem decodeLoad_shape (az : Bool) (rd ra : Reg) (sub am : Nat) (x y : Word) :
    (decodeLoad az rd ra sub am x).map formShape = (decodeLoad az rd ra sub am y).map formShape := by
  unfold decodeLoad
  split <;> first | exact onlyIf_shape _ rfl | rfl

theorem decodeStore_shape (az : Bool) (rd ra : Reg) (sub am : Nat) (x y : Word) :
    (decodeStore az rd ra sub am x).map formShape = (decodeStore az rd ra sub am y).map formShape := by
  unfold decodeStore
  split <;> first | exact onlyIf_shape _ rfl | rfl

theorem decodeAlu_shape (rz : Bool) (rd ra : Reg) (sub am : Nat) (x y : Word) :
    (decodeAlu rz rd ra sub am x).map formShape = (decodeAlu rz rd ra sub am y).map formShape := by
  unfold decodeAlu
  split <;> first | exact onlyIf_shape _ rfl | rfl

theorem decodeHelper_shape (rd ra : Reg) (sub am : Nat) (x y : Word) :
    (decodeHelper rd ra sub am x).map formShape = (decodeHelper rd ra sub am y).map formShape := by
  unfold decodeHelper
  split <;> rfl

theorem decodeBranch_shape (rz az : Bool) (sub am : Nat) (x y : Word) :
    (decodeBranch rz az sub am x).map formShape = (decodeBranch rz az sub am y).map formShape := by
  unfold decodeBranch
  split <;> first | exact onlyIf_shape _ rfl | rfl

theorem decodeMmio_shape (az : Bool) (rd : Reg) (sub am : Nat) (x y : Word) :
    (decodeMmio az rd sub am x).map formShape = (decodeMmio az rd sub am y).map formShape := by
  unfold decodeMmio
  split <;> first | exact onlyIf_shape _ rfl | rfl

theorem decodeAtomic_shape (az : Bool) (rd : Reg) (sub am : Nat) (x y : Word) :
    (decodeAtomic az rd sub am x).map formShape = (decodeAtomic az rd sub am y).map formShape := by
  unfold decodeAtomic
  split <;> first | exact onlyIf_shape _ rfl | rfl

/-- The extension word decides neither whether a primary word is legal nor the form's length and cost. -/
theorem decodeForm_shape (w x y : Word) : (decodeForm w x).map formShape = (decodeForm w y).map formShape := by
  unfold decodeForm
  dsimp only
  split
  · exact decodeControl_shape ..
  · exact decodeMov_shape ..
  · exact decodeLoad_shape ..
  · exact decodeStore_shape ..
  · exact decodeAlu_shape ..
  · exact decodeHelper_shape ..
  · exact decodeBranch_shape ..
  · rfl
  · exact decodeMmio_shape ..
  · exact decodeAtomic_shape ..
  · rfl
  · rfl

/-! ## The implied register B (R121, R131) -/

/-- A form that reads a register B is one word long, so no bit is left to name another B. -/
theorem implicitB_one_word {i : Instr} {b : Reg} (h : i.implicitB = some b) : i.extWords = 0 := by
  cases i <;> first | rfl | cases h

/-- The SUB field of its word is the number of that register. -/
theorem implicitB_encode {i : Instr} {b : Reg} (h : i.implicitB = some b) : ∃ w, encode i = [w] ∧ subField w = b.bits := by
  cases i <;> first | cases h
  all_goals refine ⟨_, rfl, ?_⟩
  case cmpReg ra => cases ra <;> rfl
  all_goals rename_i rd ra; cases rd <;> cases ra <;> rfl

end Sys2Proof
end

