-- ==== Sys2Proof/Laws/Exec.lean ====
section
/-! SUPPORT. The induction over everything an instruction can do, packaged once: a property that each elementary move
keeps is kept by `exec` (`Closed.exec`). -/

namespace Sys2Proof.Machine

/-- A property of states that every elementary move of an instruction keeps. The pops of ERET are not among the moves
(`Closed.exec` asks for them apart). -/
structure Closed (P : State → Prop) : Prop where
  setReg : ∀ s r v, P s → P (s.setReg r v)
  setPc : ∀ s v, P s → P (s.setPc v)
  setCause : ∀ s v, P s → P (s.setCause v)
  setHctx : ∀ s h, P s → P (s.setHctx h)
  /-- FLAGS written with bits 15..4 kept. -/
  aluFlags : ∀ s v, (∀ j, 4 ≤ j → j < 16 → v.getLsbD j = s.flags.getLsbD j) → P s → P (s.setFlags v)
  enterFlags : ∀ s cls, P s → P (s.setFlags (entryFlags cls s.flags))
  /-- SP moved by an even amount. -/
  moveSp : ∀ s d, isOdd d = false → P s → P (s.setSp (s.sp + d))
  /-- The head of EVQ removed. -/
  tailEvq : ∀ s id rest, s.evq = id :: rest → P s → P (s.setEvq rest)
  busRead : ∀ s a, P s → P (s.busRead a)
  busWrite : ∀ s a v, P s → P (s.busWrite a v)
  writeRam : ∀ s a v, isOdd a = false → region a = .ram → P s → P (s.setMem (s.mem.writeWord a v))
  recordFault : ∀ s k, P s → P (s.recordFault k)
  countInstr : ∀ s, P s → P s.countInstr
  charge : ∀ s n, P s → P (charge n s)
  haltPerm : ∀ s, P s → P (s.setRunState .haltPerm)
  haltTick : ∀ s, s.tick.toNat < budget → P s → P (s.setRunState .haltTick)

namespace Closed

variable {P : State → Prop}

theorem memRead (hP : Closed P) {a v : Word} {s t : State} (h : P s) (e : memRead a s = .ok (v, t)) : P t := by
  rcases memRead_ok e with ⟨-, ⟨-, -, rfl⟩ | ⟨-, -, rfl⟩ | ⟨-, -, rfl⟩⟩
  · exact h
  · exact hP.busRead s a h
  · exact h

theorem memWrite (hP : Closed P) {a v : Word} {s t : State} (h : P s) (e : memWrite a v s = .ok t) : P t := by
  rcases memWrite_ok e with ⟨ho, ⟨hr, rfl⟩ | ⟨-, rfl⟩⟩
  · exact hP.writeRam s a v ho hr h
  · exact hP.busWrite s a v h

theorem memRead_sp {a v : Word} {s t : State} (e : Machine.memRead a s = .ok (v, t)) : t.sp = s.sp := by
  rcases memRead_ok e with ⟨-, ⟨-, -, rfl⟩ | ⟨-, -, rfl⟩ | ⟨-, -, rfl⟩⟩ <;> rfl

theorem memWrite_sp {a v : Word} {s t : State} (e : Machine.memWrite a v s = .ok t) : t.sp = s.sp := by
  rcases memWrite_ok e with ⟨-, ⟨-, rfl⟩ | ⟨-, rfl⟩⟩ <;> rfl

theorem memWrite_flags {a v : Word} {s t : State} (e : Machine.memWrite a v s = .ok t) : t.flags = s.flags := by
  rcases memWrite_ok e with ⟨-, ⟨-, rfl⟩ | ⟨-, rfl⟩⟩ <;> rfl

theorem memRead_flags {a v : Word} {s t : State} (e : Machine.memRead a s = .ok (v, t)) : t.flags = s.flags := by
  rcases memRead_ok e with ⟨-, ⟨-, -, rfl⟩ | ⟨-, -, rfl⟩ | ⟨-, -, rfl⟩⟩ <;> rfl

theorem memWrite_evq {a v : Word} {s t : State} (e : Machine.memWrite a v s = .ok t) : t.evq = s.evq := by
  rcases memWrite_ok e with ⟨-, ⟨-, rfl⟩ | ⟨-, rfl⟩⟩ <;> rfl

theorem push (hP : Closed P) {v : Word} {s t : State} (h : P s) (e : pushWord v s = .ok t) : P t := by
  obtain ⟨u, hu, rfl⟩ := pushWord_ok e
  have hs : s.sp - 2#16 = u.sp + 0xFFFE#16 := by rw [memWrite_sp hu, BitVec.sub_eq_add_neg]; rfl
  rw [hs]
  exact hP.moveSp u _ (by decide) (hP.memWrite h hu)

theorem push_flags {v : Word} {s t : State} (e : pushWord v s = .ok t) : t.flags = s.flags := by
  obtain ⟨u, hu, rfl⟩ := pushWord_ok e
  exact (memWrite_flags hu : u.flags = s.flags)

theorem push_evq {v : Word} {s t : State} (e : pushWord v s = .ok t) : t.evq = s.evq := by
  obtain ⟨u, hu, rfl⟩ := pushWord_ok e
  exact (memWrite_evq hu : u.evq = s.evq)

theorem pop (hP : Closed P) {v : Word} {s t : State} (h : P s) (e : popWord s = .ok (v, t)) : P t := by
  obtain ⟨u, hu, rfl⟩ := popWord_ok e
  rw [← memRead_sp hu]
  exact hP.moveSp u _ (by decide) (hP.memRead h hu)

theorem pop_flags {v : Word} {s t : State} (e : popWord s = .ok (v, t)) : t.flags = s.flags := by
  obtain ⟨u, hu, rfl⟩ := popWord_ok e
  exact (memRead_flags hu : u.flags = s.flags)

theorem enter (hP : Closed P) {cls : DispatchClass} {code : Byte} {r : Word} {s t : State} (h : P s)
    (e : enter cls code r s = .ok t) : P t := by
  obtain ⟨s1, s2, s3, h1, h2, h3, rfl⟩ := enter_ok e
  have hf : s.flags = s3.flags := by rw [push_flags h3, push_flags h2, push_flags h1]; rfl
  have p3 := hP.push (hP.push (hP.push (hP.setReg _ _ _ (hP.setCause _ _ h)) h1) h2) h3
  unfold enterHandler
  rw [hf]
  exact hP.setHctx _ _ (hP.setPc _ _ (hP.enterFlags _ _ p3))

theorem enter_evq {cls : DispatchClass} {code : Byte} {r : Word} {s t : State} (e : Machine.enter cls code r s = .ok t) :
    t.evq = s.evq := by
  obtain ⟨s1, s2, s3, h1, h2, h3, rfl⟩ := enter_ok e
  show s3.evq = s.evq
  rw [push_evq h3, push_evq h2, push_evq h1]; rfl

theorem raiseFault (hP : Closed P) (k : FaultKind) (base : Nat) {s : State} (h : P s) : P (raiseFault k base s) := by
  rcases raiseFault_cases k base s with e | ⟨-, t, ht, e⟩
  · rw [e]; exact hP.haltPerm _ (hP.recordFault _ _ h)
  · rw [e]; exact hP.charge _ _ (hP.enter (hP.recordFault _ _ h) ht)

theorem raiseTrap (hP : Closed P) (i : Instr) (id : Byte) {s : State} (h : P s) : P (raiseTrap i id s) := by
  rcases raiseTrap_cases i id s with ⟨t, ht, e⟩ | ⟨k, -, e⟩
  · rw [e]; exact hP.charge _ _ (hP.countInstr _ (hP.enter h ht))
  · rw [e]; exact hP.raiseFault _ _ h

theorem dispatchEvent (hP : Closed P) (id : Byte) (rest : List Byte) {s : State} (hq : s.evq = id :: rest) (h : P s) :
    P (dispatchEvent id rest s) := by
  rcases dispatchEvent_cases id rest s with ⟨t, ht, e⟩ | ⟨k, -, e⟩
  · rw [e]; exact hP.charge _ _ (hP.tailEvq _ id rest ((enter_evq ht).trans hq) (hP.enter h ht))
  · rw [e]; exact hP.raiseFault _ _ h

theorem retire (hP : Closed P) (n : Nat) {s : State} (h : P s) : P (retire n s) := hP.charge _ _ (hP.countInstr _ h)

theorem finish (hP : Closed P) (i : Instr) {s t : State} {r : Except FaultKind State} (h : P s)
    (hr : ∀ u, r = .ok u → P u) (e : finish i s r = .next t) : P t := by
  unfold Machine.finish at e
  split at e
  · next u => cases e; exact hP.retire _ (hr u rfl)
  · cases e; exact hP.raiseFault _ _ h

theorem setZNCV_high (v : Word) (c o : Bool) (w : Word) (j : Nat) (h4 : 4 ≤ j) (h16 : j < 16) :
    (setZNCV v c o w).getLsbD j = w.getLsbD j := by
  rw [getLsbD_setZNCV _ _ _ _ _ h16, if_neg (by omega), if_neg (by omega), if_neg (by omega), if_neg (by omega)]

/-- A register result whose FLAGS keep bits 15..4. -/
theorem aluResult (hP : Closed P) (i : Instr) (rd : Reg) (v fl : Word) {s t : State}
    (hf : ∀ j, 4 ≤ j → j < 16 → fl.getLsbD j = s.flags.getLsbD j) (h : P s) (e : aluResult i rd v fl s = .next t) : P t := by
  unfold Machine.aluResult at e
  cases e
  exact hP.retire _ (hP.setPc _ _ (hP.aluFlags _ _ (by simpa using hf) (hP.setReg _ _ _ h)))

theorem loadFrom (hP : Closed P) (i : Instr) (rd : Reg) (ea : Word) {s t : State} (h : P s)
    (e : loadFrom i rd ea s = .next t) : P t := by
  rcases loadFrom_cases i rd ea s with ⟨v, u, hu, e'⟩ | ⟨k, -, e'⟩
  · rw [e'] at e; cases e
    refine hP.retire _ (hP.setPc _ _ (hP.aluFlags _ _ ?_ (hP.setReg _ _ _ (hP.memRead h hu))))
    intro j h4 h16
    simp only [State.setReg_flags, memRead_flags hu]
    exact setZNCV_high _ _ _ _ _ h4 h16
  · rw [e'] at e; cases e; exact hP.raiseFault _ _ h

theorem storeTo (hP : Closed P) (i : Instr) (rd : Reg) (ea : Word) {s t : State} (h : P s)
    (e : storeTo i rd ea s = .next t) : P t := by
  rcases storeTo_cases i rd ea s with ⟨u, hu, e'⟩ | ⟨k, -, e'⟩
  · rw [e'] at e; cases e; exact hP.retire _ (hP.setPc _ _ (hP.memWrite h hu))
  · rw [e'] at e; cases e; exact hP.raiseFault _ _ h

theorem illegalExt (hP : Closed P) (i : Instr) {s t : State} (h : P s) (e : illegalExt i s = .next t) : P t :=
  hP.finish i h (fun _ hu => by cases hu) e

theorem addWith (hP : Closed P) (i : Instr) (rd : Reg) (a b : Word) {s t : State} (h : P s)
    (e : addWith i rd a b s = .next t) : P t :=
  hP.aluResult i rd _ _ (fun _ => setZNCV_high _ _ _ _ _) h e

theorem subWith (hP : Closed P) (i : Instr) (rd : Reg) (a b : Word) {s t : State} (h : P s)
    (e : subWith i rd a b s = .next t) : P t :=
  hP.aluResult i rd _ _ (fun _ => setZNCV_high _ _ _ _ _) h e

theorem moveWith (hP : Closed P) (i : Instr) (rd : Reg) (v : Word) {s t : State} (h : P s)
    (e : moveWith i rd v s = .next t) : P t :=
  hP.aluResult i rd _ _ (fun _ => setZNCV_high _ _ _ _ _) h e

theorem shlWith (hP : Closed P) (i : Instr) (rd : Reg) (a b : Word) {s t : State} (h : P s)
    (e : shlWith i rd a b s = .next t) : P t :=
  hP.aluResult i rd _ _ (fun _ => setZNCV_high _ _ _ _ _) h e

theorem shrWith (hP : Closed P) (i : Instr) (rd : Reg) (a b : Word) {s t : State} (h : P s)
    (e : shrWith i rd a b s = .next t) : P t :=
  hP.aluResult i rd _ _ (fun _ => setZNCV_high _ _ _ _ _) h e

theorem plainWith (hP : Closed P) (i : Instr) (rd : Reg) (v : Word) {s t : State} (h : P s)
    (e : plainWith i rd v s = .next t) : P t :=
  hP.aluResult i rd _ _ (fun _ _ _ => rfl) h e

theorem cmpWith (hP : Closed P) (i : Instr) (a b : Word) {s t : State} (h : P s) (e : cmpWith i a b s = .next t) : P t :=
  hP.finish i h (fun _ hu => by
    cases hu; exact hP.setPc _ _ (hP.aluFlags _ _ (fun _ => setZNCV_high _ _ _ _ _) h)) e

theorem branchIf (hP : Closed P) (i : Instr) (taken : Bool) (ext : Word) {s t : State} (h : P s)
    (e : branchIf i taken ext s = .next t) : P t := by
  unfold Machine.branchIf at e
  split at e <;> cases e <;> exact hP.retire _ (hP.setPc _ _ h)

theorem haltState (hP : Closed P) {s : State} (h : P s) : P (haltState s) := by
  have hr : P (Machine.retire (Instr.baseCost .halt) (advance .halt s)) := hP.retire _ (hP.setPc _ _ h)
  unfold Machine.haltState haltUnlessBudget
  split
  · exact hr
  · next hb => exact hP.haltTick _ (by omega) hr

theorem mmioRead (hP : Closed P) {a v : Word} {s t : State} (h : P s) (e : mmioRead a s = .ok (v, t)) : P t := by
  obtain ⟨-, -, rfl⟩ := mmioRead_ok e; exact hP.busRead _ _ h

theorem mmioWrite (hP : Closed P) {a v : Word} {s t : State} (h : P s) (e : mmioWrite a v s = .ok t) : P t := by
  obtain ⟨-, rfl⟩ := mmioWrite_ok e; exact hP.busWrite _ _ _ h

theorem modifyWord (hP : Closed P) {a : Word} {f : Word → Word} {s t : State} (h : P s)
    (e : modifyWord a f s = .ok t) : P t := by
  unfold Machine.modifyWord at e
  split at e
  · cases e
  · next v u hu => exact hP.mmioWrite (hP.mmioRead h hu) e

/-- A property that every elementary move keeps is kept by every instruction. For ERET, what its pops leave is asked for
apart. -/
theorem exec (hP : Closed P) (i : Instr) {s t : State}
    (hl : i = .eret → ∀ u, leaveHandler s = .ok u → P u) (h : P s) (e : exec i s = .next t) : P t := by
  cases i <;> simp only [Machine.exec] at e
  case nop => exact hP.finish _ h (fun _ hu => by cases hu; exact hP.setPc _ _ h) e
  case sync => exact hP.finish _ h (fun _ hu => by cases hu; exact hP.setPc _ _ h) e
  case halt => cases e; exact hP.haltState h
  case trap => cases e; exact hP.raiseTrap _ _ h
  case swi ext =>
    unfold execSwi at e
    split at e
    · cases e; exact hP.raiseTrap _ _ h
    · exact hP.illegalExt _ h e
  case movReg => exact hP.moveWith _ _ _ h e
  case movImm => exact hP.moveWith _ _ _ h e
  case loadInd => exact hP.loadFrom _ _ _ h e
  case loadDisp =>
    unfold execLoadDisp at e
    split at e
    · exact hP.loadFrom _ _ _ h e
    · exact hP.illegalExt _ h e
  case loadAbs => exact hP.loadFrom _ _ _ h e
  case loadPcrel => exact hP.loadFrom _ _ _ h e
  case storeInd => exact hP.storeTo _ _ _ h e
  case storeDisp =>
    unfold execStoreDisp at e
    split at e
    · exact hP.storeTo _ _ _ h e
    · exact hP.illegalExt _ h e
  case storeAbs => exact hP.storeTo _ _ _ h e
  case storePcrel => exact hP.storeTo _ _ _ h e
  case addReg => exact hP.addWith _ _ _ _ h e
  case addImm => exact hP.addWith _ _ _ _ h e
  case subReg => exact hP.subWith _ _ _ _ h e
  case subImm => exact hP.subWith _ _ _ _ h e
  case andReg => exact hP.moveWith _ _ _ h e
  case andImm => exact hP.moveWith _ _ _ h e
  case orReg => exact hP.moveWith _ _ _ h e
  case orImm => exact hP.moveWith _ _ _ h e
  case xorReg => exact hP.moveWith _ _ _ h e
  case xorImm => exact hP.moveWith _ _ _ h e
  case shlReg => exact hP.shlWith _ _ _ _ h e
  case shlImm => exact hP.shlWith _ _ _ _ h e
  case shrReg => exact hP.shrWith _ _ _ _ h e
  case shrImm => exact hP.shrWith _ _ _ _ h e
  case cmpReg => exact hP.cmpWith _ _ _ h e
  case cmpImm => exact hP.cmpWith _ _ _ h e
  case mulReg => exact hP.plainWith _ _ _ h e
  case mulImm => exact hP.plainWith _ _ _ h e
  case mulhReg => exact hP.plainWith _ _ _ h e
  case mulhImm => exact hP.plainWith _ _ _ h e
  case divReg => exact hP.plainWith _ _ _ h e
  case divImm => exact hP.plainWith _ _ _ h e
  case modReg => exact hP.plainWith _ _ _ h e
  case modImm => exact hP.plainWith _ _ _ h e
  case qaddReg => exact hP.moveWith _ _ _ h e
  case qaddImm => exact hP.moveWith _ _ _ h e
  case qsubReg => exact hP.moveWith _ _ _ h e
  case qsubImm => exact hP.moveWith _ _ _ h e
  case scv =>
    unfold execScv at e
    split at e
    · exact hP.moveWith _ _ _ h e
    · exact hP.illegalExt _ h e
  case beq => exact hP.branchIf _ _ _ h e
  case bne => exact hP.branchIf _ _ _ h e
  case blt => exact hP.branchIf _ _ _ h e
  case ble => exact hP.branchIf _ _ _ h e
  case bgt => exact hP.branchIf _ _ _ h e
  case bge => exact hP.branchIf _ _ _ h e
  case jmp => exact hP.finish _ h (fun _ hu => by cases hu; exact hP.setPc _ _ h) e
  case call =>
    unfold execCall at e
    split at e
    · exact hP.finish _ h (fun _ hu => by cases hu) e
    · next u hu => exact hP.finish _ h (fun _ hv => by cases hv; exact hP.setPc _ _ (hP.push h hu)) e
  case ret =>
    unfold execRet at e
    split at e
    · exact hP.finish _ h (fun _ hu => by cases hu) e
    · next v u hu => exact hP.finish _ h (fun _ hv => by cases hv; exact hP.setPc _ _ (hP.pop h hu)) e
  case push =>
    unfold execPush at e
    split at e
    · exact hP.finish _ h (fun _ hu => by cases hu) e
    · next u hu => exact hP.finish _ h (fun _ hv => by cases hv; exact hP.setPc _ _ (hP.push h hu)) e
  case pop =>
    unfold execPop at e
    split at e
    · exact hP.finish _ h (fun _ hu => by cases hu) e
    · next v u hu =>
      exact hP.finish _ h (fun _ hv => by cases hv; exact hP.setPc _ _ (hP.setReg _ _ _ (hP.pop h hu))) e
  case inp =>
    unfold execInp at e
    split at e
    · exact hP.finish _ h (fun _ hu => by cases hu) e
    · next v u hu =>
      refine hP.finish _ h (fun _ hv => ?_) e
      cases hv
      obtain ⟨-, -, rfl⟩ := mmioRead_ok hu
      exact hP.setPc _ _ (hP.aluFlags _ _ (fun _ => setZNCV_high _ _ _ _ _) (hP.setReg _ _ _ (hP.busRead _ _ h)))
  case out =>
    unfold execOut at e
    split at e
    · exact hP.finish _ h (fun _ hu => by cases hu) e
    · next u hu => exact hP.finish _ h (fun _ hv => by cases hv; exact hP.setPc _ _ (hP.mmioWrite h hu)) e
  case bset =>
    unfold execBset at e
    split at e
    · exact hP.finish _ h (fun _ hu => by cases hu) e
    · next u hu => exact hP.finish _ h (fun _ hv => by cases hv; exact hP.setPc _ _ (hP.modifyWord h hu)) e
  case bclr =>
    unfold execBclr at e
    split at e
    · exact hP.finish _ h (fun _ hu => by cases hu) e
    · next u hu => exact hP.finish _ h (fun _ hv => by cases hv; exact hP.setPc _ _ (hP.modifyWord h hu)) e
  case btest =>
    unfold execBtest at e
    split at e
    · exact hP.finish _ h (fun _ hu => by cases hu) e
    · next v u hu =>
      refine hP.finish _ h (fun _ hv => ?_) e
      cases hv
      obtain ⟨-, -, rfl⟩ := mmioRead_ok hu
      refine hP.setPc _ _ (hP.aluFlags _ _ ?_ (hP.busRead _ _ h))
      intro j h4 h16
      unfold testFlags
      rw [getLsbD_putFlag _ _ _ _ h16]
      exact if_neg (by simp only [Flag.bit]; omega)
  case ewait =>
    unfold execEwait at e
    split at e
    · cases e; exact h
    · exact hP.finish _ h (fun _ hu => by cases hu; exact hP.setPc _ _ h) e
  case eget =>
    unfold execEget at e
    split at e
    · exact hP.finish _ h (fun _ hu => by cases hu; exact hP.setPc _ _ (hP.setReg _ _ _ h)) e
    · next id rest hq =>
      exact hP.finish _ h (fun _ hu => by cases hu; exact hP.setPc _ _ (hP.setReg _ _ _ (hP.tailEvq _ _ _ hq h))) e
  case eret => exact hP.finish _ h (hl rfl) e

/-- The pops of ERET keep a property that the moves keep and that the write of FLAGS from a popped word keeps. -/
theorem leaveHandler (hP : Closed P) (hpop : ∀ s w, P s → P (s.setFlags (poppedFlags w))) {s t : State} (h : P s)
    (e : leaveHandler s = .ok t) : P t := by
  obtain ⟨cls, ctx, c, s1, w, s2, p, s3, -, h1, h2, h3, rfl⟩ := leaveHandler_ok e
  have hs : s.sp = s3.sp := by rw [memRead_sp h3, memRead_sp h2, memRead_sp h1]
  have p3 := hP.memRead (hP.memRead (hP.memRead h h1) h2) h3
  rw [hs]
  exact hP.setHctx _ _ (hP.setPc _ _ (hpop _ _ (hP.setCause _ _ (hP.moveSp _ _ (by decide) p3))))

end Closed

end Sys2Proof.Machine
end

