-- ==== Sys2Proof/Laws/PerInstr.lean ====
section
/-! SUPPORT. A statement about every instruction as syntax, one lemma per constructor. -/

namespace Sys2Proof.Laws.EncodeLength

/-- The encoder gives one primary word and as many extension words as the form has (30_encoding.md R100), two bytes each. -/
def Statement (i : Instr) : Prop := (encode i).length = 1 + i.extWords ∧ (encodeBytes i).length = 2 * (1 + i.extWords)

theorem nop : Statement (.nop) := ⟨rfl, rfl⟩
theorem sync : Statement (.sync) := ⟨rfl, rfl⟩
theorem halt : Statement (.halt) := ⟨rfl, rfl⟩
theorem trap (rd : Reg) : Statement (.trap rd) := ⟨rfl, rfl⟩
theorem swi (ext : Word) : Statement (.swi ext) := ⟨rfl, rfl⟩
theorem movReg (rd ra : Reg) : Statement (.movReg rd ra) := ⟨rfl, rfl⟩
theorem movImm (rd : Reg) (ext : Word) : Statement (.movImm rd ext) := ⟨rfl, rfl⟩
theorem loadInd (rd ra : Reg) : Statement (.loadInd rd ra) := ⟨rfl, rfl⟩
theorem loadDisp (rd ra : Reg) (ext : Word) : Statement (.loadDisp rd ra ext) := ⟨rfl, rfl⟩
theorem loadAbs (rd : Reg) (ext : Word) : Statement (.loadAbs rd ext) := ⟨rfl, rfl⟩
theorem loadPcrel (rd : Reg) (ext : Word) : Statement (.loadPcrel rd ext) := ⟨rfl, rfl⟩
theorem storeInd (rd ra : Reg) : Statement (.storeInd rd ra) := ⟨rfl, rfl⟩
theorem storeDisp (rd ra : Reg) (ext : Word) : Statement (.storeDisp rd ra ext) := ⟨rfl, rfl⟩
theorem storeAbs (rd : Reg) (ext : Word) : Statement (.storeAbs rd ext) := ⟨rfl, rfl⟩
theorem storePcrel (rd : Reg) (ext : Word) : Statement (.storePcrel rd ext) := ⟨rfl, rfl⟩
theorem addReg (rd ra : Reg) : Statement (.addReg rd ra) := ⟨rfl, rfl⟩
theorem addImm (rd ra : Reg) (ext : Word) : Statement (.addImm rd ra ext) := ⟨rfl, rfl⟩
theorem subReg (rd ra : Reg) : Statement (.subReg rd ra) := ⟨rfl, rfl⟩
theorem subImm (rd ra : Reg) (ext : Word) : Statement (.subImm rd ra ext) := ⟨rfl, rfl⟩
theorem andReg (rd ra : Reg) : Statement (.andReg rd ra) := ⟨rfl, rfl⟩
theorem andImm (rd ra : Reg) (ext : Word) : Statement (.andImm rd ra ext) := ⟨rfl, rfl⟩
theorem orReg (rd ra : Reg) : Statement (.orReg rd ra) := ⟨rfl, rfl⟩
theorem orImm (rd ra : Reg) (ext : Word) : Statement (.orImm rd ra ext) := ⟨rfl, rfl⟩
theorem xorReg (rd ra : Reg) : Statement (.xorReg rd ra) := ⟨rfl, rfl⟩
theorem xorImm (rd ra : Reg) (ext : Word) : Statement (.xorImm rd ra ext) := ⟨rfl, rfl⟩
theorem shlReg (rd ra : Reg) : Statement (.shlReg rd ra) := ⟨rfl, rfl⟩
theorem shlImm (rd ra : Reg) (ext : Word) : Statement (.shlImm rd ra ext) := ⟨rfl, rfl⟩
theorem shrReg (rd ra : Reg) : Statement (.shrReg rd ra) := ⟨rfl, rfl⟩
theorem shrImm (rd ra : Reg) (ext : Word) : Statement (.shrImm rd ra ext) := ⟨rfl, rfl⟩
theorem cmpReg (ra : Reg) : Statement (.cmpReg ra) := ⟨rfl, rfl⟩
theorem cmpImm (ra : Reg) (ext : Word) : Statement (.cmpImm ra ext) := ⟨rfl, rfl⟩
theorem mulReg (rd ra : Reg) : Statement (.mulReg rd ra) := ⟨rfl, rfl⟩
theorem mulImm (rd ra : Reg) (ext : Word) : Statement (.mulImm rd ra ext) := ⟨rfl, rfl⟩
theorem mulhReg (rd ra : Reg) : Statement (.mulhReg rd ra) := ⟨rfl, rfl⟩
theorem mulhImm (rd ra : Reg) (ext : Word) : Statement (.mulhImm rd ra ext) := ⟨rfl, rfl⟩
theorem divReg (rd ra : Reg) : Statement (.divReg rd ra) := ⟨rfl, rfl⟩
theorem divImm (rd ra : Reg) (ext : Word) : Statement (.divImm rd ra ext) := ⟨rfl, rfl⟩
theorem modReg (rd ra : Reg) : Statement (.modReg rd ra) := ⟨rfl, rfl⟩
theorem modImm (rd ra : Reg) (ext : Word) : Statement (.modImm rd ra ext) := ⟨rfl, rfl⟩
theorem qaddReg (rd ra : Reg) : Statement (.qaddReg rd ra) := ⟨rfl, rfl⟩
theorem qaddImm (rd ra : Reg) (ext : Word) : Statement (.qaddImm rd ra ext) := ⟨rfl, rfl⟩
theorem qsubReg (rd ra : Reg) : Statement (.qsubReg rd ra) := ⟨rfl, rfl⟩
theorem qsubImm (rd ra : Reg) (ext : Word) : Statement (.qsubImm rd ra ext) := ⟨rfl, rfl⟩
theorem scv (rd ra : Reg) (ext : Word) : Statement (.scv rd ra ext) := ⟨rfl, rfl⟩
theorem beq (ext : Word) : Statement (.beq ext) := ⟨rfl, rfl⟩
theorem bne (ext : Word) : Statement (.bne ext) := ⟨rfl, rfl⟩
theorem blt (ext : Word) : Statement (.blt ext) := ⟨rfl, rfl⟩
theorem ble (ext : Word) : Statement (.ble ext) := ⟨rfl, rfl⟩
theorem bgt (ext : Word) : Statement (.bgt ext) := ⟨rfl, rfl⟩
theorem bge (ext : Word) : Statement (.bge ext) := ⟨rfl, rfl⟩
theorem jmp (ext : Word) : Statement (.jmp ext) := ⟨rfl, rfl⟩
theorem call (ext : Word) : Statement (.call ext) := ⟨rfl, rfl⟩
theorem ret : Statement (.ret) := ⟨rfl, rfl⟩
theorem push (rd : Reg) : Statement (.push rd) := ⟨rfl, rfl⟩
theorem pop (rd : Reg) : Statement (.pop rd) := ⟨rfl, rfl⟩
theorem inp (rd : Reg) (ext : Word) : Statement (.inp rd ext) := ⟨rfl, rfl⟩
theorem out (rd : Reg) (ext : Word) : Statement (.out rd ext) := ⟨rfl, rfl⟩
theorem bset (rd : Reg) (ext : Word) : Statement (.bset rd ext) := ⟨rfl, rfl⟩
theorem bclr (rd : Reg) (ext : Word) : Statement (.bclr rd ext) := ⟨rfl, rfl⟩
theorem btest (rd : Reg) (ext : Word) : Statement (.btest rd ext) := ⟨rfl, rfl⟩
theorem ewait : Statement (.ewait) := ⟨rfl, rfl⟩
theorem eget (rd : Reg) : Statement (.eget rd) := ⟨rfl, rfl⟩
theorem eret : Statement (.eret) := ⟨rfl, rfl⟩

end Sys2Proof.Laws.EncodeLength
end

