-- ==== Sys2Proof/Laws/Step.lean ====
section
/-! SUPPORT. What a step can do: the induction over instructions carried to the step, its inputs included. -/

namespace Sys2Proof.Machine

/-- A property that every elementary move of an instruction and of a boundary keeps. -/
structure StepClosed (P : State → Prop) : Prop extends Closed P where
  popFlags : ∀ s w, P s → P (s.setFlags (poppedFlags w))
  clearQovf : ∀ s, P s → P (s.setQovf false)
  setEnv : ∀ s e, P s → P (s.setEnv e)
  enqueue : ∀ id s, P s → P (enqueue id s)
  tick : ∀ s, P s → P (tickBoundary s)
  reset : ∀ s, P s → P (resetInput s)

/-- The inputs keep what each of them keeps (R262). -/
theorem applyInputs_keeps {P : State → Prop} {xs : List Input} (h : ∀ s x, x ∈ xs → P s → P (applyInput s x)) {s : State}
    (hs : P s) : P (applyInputs xs s) := by
  have hmem : ∀ x, x ∈ inputOrder xs → x ∈ xs := by
    intro x hx
    simp only [inputOrder, List.mem_append, List.mem_filter] at hx
    rcases hx with (⟨hx, -⟩ | ⟨hx, -⟩) | ⟨hx, -⟩ <;> exact hx
  have key : ∀ (l : List Input), (∀ x, x ∈ l → x ∈ xs) → ∀ u, P u → P (l.foldl applyInput u) := by
    intro l
    induction l with
    | nil => intro _ u hu; exact hu
    | cons x l ih =>
      intro hl u hu
      rw [List.foldl_cons]
      exact ih (fun y hy => hl y (List.mem_cons_of_mem _ hy)) _ (h u x (hl x (List.mem_cons_self ..)) hu)
  exact key _ hmem s hs

@[simp] theorem State.setEnv_self (s : State) : s.setEnv s.env = s := rfl

/-- An input does not look at the later inputs. -/
theorem applyInput_setEnv (x : Input) (e : List (List Input)) (s : State) :
    applyInput (s.setEnv e) x = (applyInput s x).setEnv e := by
  cases x with
  | reset => rfl
  | tick =>
    show tickBoundary _ = (tickBoundary s).setEnv e
    unfold tickBoundary
    cases h : s.runState <;> (rw [show (s.setEnv e).runState = s.runState from rfl, h]; rfl)
  | enqueue id =>
    show enqueue id _ = (enqueue id s).setEnv e
    unfold enqueue
    rw [show (s.setEnv e).evq = s.evq from rfl]
    split <;> rfl

/-- Nor do the inputs of a boundary together. -/
theorem applyInputs_setEnv (xs : List Input) (e : List (List Input)) (s : State) :
    applyInputs xs (s.setEnv e) = (applyInputs xs s).setEnv e := by
  have fold : ∀ (ys : List Input) (u : State), ys.foldl applyInput (u.setEnv e) = (ys.foldl applyInput u).setEnv e := by
    intro ys
    induction ys with
    | nil => exact fun _ => rfl
    | cons y ys ih => intro u; rw [List.foldl_cons, List.foldl_cons, applyInput_setEnv, ih]
  exact fold _ s

/-- The later inputs stay as they are. -/
@[simp] theorem applyInputs_env (xs : List Input) (s : State) : (applyInputs xs s).env = s.env := by
  have h := congrArg State.env (applyInputs_setEnv xs s.env s)
  rw [State.setEnv_self] at h
  exact h

/-- With no input pending nothing but the schedule changes. -/
theorem acceptInputs_none {s : State} (h : s.pendingInputs = []) : acceptInputs s = s.setEnv s.env.tail := by
  simp [acceptInputs, h, applyInputs, inputOrder]

/-- Everything a step of the core can do (R262). -/
theorem coreStep_cases (s : State) :
    (s.runState ≠ .run ∧ coreStep s = .next s) ∨
      (s.runState = .run ∧ s.qovf = true ∧ coreStep s = .next (raiseFault .evqOverflow 0 (s.setQovf false))) ∨
      (s.runState = .run ∧ s.qovf = false ∧ ∃ id rest, s.flag .i = true ∧ s.evq = id :: rest ∧
        coreStep s = .next (dispatchEvent id rest s)) ∨
      (s.runState = .run ∧ s.qovf = false ∧ (s.flag .i = false ∨ s.evq = []) ∧
        ((∃ e, fetchInstr s = .error e ∧ coreStep s = .next (raiseFault e.kind e.base s)) ∨
          (∃ i, fetchInstr s = .ok i ∧ coreStep s = exec i s))) := by
  have hi : (∃ e, fetchInstr s = .error e ∧ instrStep s = .next (raiseFault e.kind e.base s)) ∨
      (∃ i, fetchInstr s = .ok i ∧ instrStep s = exec i s) := by
    unfold instrStep
    cases hf : fetchInstr s with
    | error e => exact Or.inl ⟨e, rfl, rfl⟩
    | ok i => exact Or.inr ⟨i, rfl, rfl⟩
  unfold coreStep
  cases hr : s.runState with
  | run =>
    cases hq : s.qovf with
    | true => exact Or.inr (Or.inl ⟨rfl, rfl, rfl⟩)
    | false =>
      refine Or.inr (Or.inr ?_)
      simp only [Bool.false_eq_true, if_false]
      unfold eventOrInstr
      cases hfi : s.flag .i with
      | false => exact Or.inr ⟨trivial, trivial, Or.inl rfl, hi⟩
      | true =>
        cases he : s.evq with
        | nil => exact Or.inr ⟨trivial, trivial, Or.inr rfl, hi⟩
        | cons id rest => exact Or.inl ⟨trivial, trivial, id, rest, rfl, rfl, rfl⟩
  | haltTick => exact Or.inl ⟨by simp, rfl⟩
  | haltBudget => exact Or.inl ⟨by simp, rfl⟩
  | haltPerm => exact Or.inl ⟨by simp, rfl⟩

/-- A property that every elementary move keeps is kept by every step. -/
theorem StepClosed.step {P : State → Prop} (hP : StepClosed P) {s t : State} (h : P s) (e : step s = .next t) : P t := by
  have hc := hP.toClosed
  have ha : P (acceptInputs s) := by
    refine applyInputs_keeps ?_ (hP.setEnv _ _ h)
    intro u x _ hu
    cases x with
    | reset => exact hP.reset u hu
    | tick => exact hP.tick u hu
    | enqueue id => exact hP.enqueue id u hu
  unfold Machine.step at e
  rcases coreStep_cases (acceptInputs s) with ⟨-, h1⟩ | ⟨-, -, h1⟩ | ⟨-, -, id, rest, -, hq, h1⟩ |
    ⟨-, -, -, ⟨x, -, h1⟩ | ⟨i, -, h1⟩⟩
  · rw [h1] at e; cases e; exact ha
  · rw [h1] at e; cases e; exact hc.raiseFault _ _ (hP.clearQovf _ ha)
  · rw [h1] at e; cases e; exact hc.dispatchEvent _ _ hq ha
  · rw [h1] at e; cases e; exact hc.raiseFault _ _ ha
  · rw [h1] at e; exact hc.exec i (fun _ _ hu => hc.leaveHandler hP.popFlags ha hu) ha e

end Sys2Proof.Machine
end

