-- ==== Sys2Proof/Tests/Slice0.lean ====
section
/-! SUPPORT. The model's own tests: the well-formedness checks, the decoding of words written out bit by bit from 30_encoding.md, one step
of each instruction on values of 95_test_vectors.md (the vector is named in the comment), and for every statement with hypotheses a
state and operands that meet them. -/

namespace Sys2Proof.Tests

open Sys2Proof Sys2Proof.Machine

/-! ## Well-formedness: each check refuses a term (R105, R106, R114) -/

theorem test_wf_disp_high_byte_not_a_sign_copy :
    (Instr.loadDisp .r1 .r3 0x0080#16).wellFormed = false ∧ (Instr.storeDisp .r1 .r3 0xFF7F#16).wellFormed = false ∧
    (Instr.loadDisp .r1 .r3 0x007F#16).wellFormed = true ∧ (Instr.storeDisp .r1 .r3 0xFF80#16).wellFormed = true := by decide

theorem test_wf_swi_high_byte :
    (Instr.swi 0x0100#16).wellFormed = false ∧ (Instr.swi 0x00FF#16).wellFormed = true := by decide

theorem test_wf_scv_middle_bits :
    (Instr.scv .r2 .r1 0x0010#16).wellFormed = false ∧ (Instr.scv .r2 .r1 0x4000#16).wellFormed = false ∧
    (Instr.scv .r2 .r1 0x800F#16).wellFormed = true := by decide

/-! ## Decoding. The bits are those of the spec's patterns with RD = 110, RA = 001 -/

theorem test_decode_control :
    decodeWords 0b0000000000000000#16 0#16 = .ok .nop ∧
    decodeWords 0b0000000000001000#16 0#16 = .ok .sync ∧
    decodeWords 0b0000000000010000#16 0#16 = .ok .halt ∧
    decodeWords 0b0000110000011000#16 0#16 = .ok (.trap .r6) ∧
    decodeWords 0b0000000000100100#16 0x0042#16 = .ok (.swi 0x0042#16) := by decide

theorem test_decode_data_movement_1 :
    decodeWords 0b0001110001000000#16 0#16 = .ok (.movReg .r6 .r1) ∧
    decodeWords 0b0001110000000100#16 0x0042#16 = .ok (.movImm .r6 0x0042#16) ∧
    decodeWords 0b0010110001000001#16 0#16 = .ok (.loadInd .r6 .r1) ∧
    decodeWords 0b0010110001000010#16 0x0042#16 = .ok (.loadDisp .r6 .r1 0x0042#16) ∧
    decodeWords 0b0010110000000011#16 0x0042#16 = .ok (.loadAbs .r6 0x0042#16) ∧
    decodeWords 0b0010110000000101#16 0x0042#16 = .ok (.loadPcrel .r6 0x0042#16) ∧
    decodeWords 0b0011110001000001#16 0#16 = .ok (.storeInd .r6 .r1) ∧
    decodeWords 0b0011110001000010#16 0x0042#16 = .ok (.storeDisp .r6 .r1 0x0042#16) := by decide

theorem test_decode_data_movement_2 :
    decodeWords 0b0011110000000011#16 0x0042#16 = .ok (.storeAbs .r6 0x0042#16) ∧
    decodeWords 0b0011110000000101#16 0x0042#16 = .ok (.storePcrel .r6 0x0042#16) := by decide

theorem test_decode_integer_alu_1 :
    decodeWords 0b0100110001000000#16 0#16 = .ok (.addReg .r6 .r1) ∧
    decodeWords 0b0100110001000100#16 0x0042#16 = .ok (.addImm .r6 .r1 0x0042#16) ∧
    decodeWords 0b0100110001001000#16 0#16 = .ok (.subReg .r6 .r1) ∧
    decodeWords 0b0100110001001100#16 0x0042#16 = .ok (.subImm .r6 .r1 0x0042#16) ∧
    decodeWords 0b0100110001010000#16 0#16 = .ok (.andReg .r6 .r1) ∧
    decodeWords 0b0100110001010100#16 0x0042#16 = .ok (.andImm .r6 .r1 0x0042#16) ∧
    decodeWords 0b0100110001011000#16 0#16 = .ok (.orReg .r6 .r1) ∧
    decodeWords 0b0100110001011100#16 0x0042#16 = .ok (.orImm .r6 .r1 0x0042#16) := by decide

theorem test_decode_integer_alu_2 :
    decodeWords 0b0100110001100000#16 0#16 = .ok (.xorReg .r6 .r1) ∧
    decodeWords 0b0100110001100100#16 0x0042#16 = .ok (.xorImm .r6 .r1 0x0042#16) ∧
    decodeWords 0b0100110001101000#16 0#16 = .ok (.shlReg .r6 .r1) ∧
    decodeWords 0b0100110001101100#16 0x0042#16 = .ok (.shlImm .r6 .r1 0x0042#16) ∧
    decodeWords 0b0100110001110000#16 0#16 = .ok (.shrReg .r6 .r1) ∧
    decodeWords 0b0100110001110100#16 0x0042#16 = .ok (.shrImm .r6 .r1 0x0042#16) ∧
    decodeWords 0b0100000001111000#16 0#16 = .ok (.cmpReg .r1) ∧
    decodeWords 0b0100000001111100#16 0x0042#16 = .ok (.cmpImm .r1 0x0042#16) := by decide

theorem test_decode_math_helpers_1 :
    decodeWords 0b0101110001000000#16 0#16 = .ok (.mulReg .r6 .r1) ∧
    decodeWords 0b0101110001000100#16 0x0042#16 = .ok (.mulImm .r6 .r1 0x0042#16) ∧
    decodeWords 0b0101110001001000#16 0#16 = .ok (.mulhReg .r6 .r1) ∧
    decodeWords 0b0101110001001100#16 0x0042#16 = .ok (.mulhImm .r6 .r1 0x0042#16) ∧
    decodeWords 0b0101110001010000#16 0#16 = .ok (.divReg .r6 .r1) ∧
    decodeWords 0b0101110001010100#16 0x0042#16 = .ok (.divImm .r6 .r1 0x0042#16) ∧
    decodeWords 0b0101110001011000#16 0#16 = .ok (.modReg .r6 .r1) ∧
    decodeWords 0b0101110001011100#16 0x0042#16 = .ok (.modImm .r6 .r1 0x0042#16) := by decide

theorem test_decode_math_helpers_2 :
    decodeWords 0b0101110001100000#16 0#16 = .ok (.qaddReg .r6 .r1) ∧
    decodeWords 0b0101110001100100#16 0x0042#16 = .ok (.qaddImm .r6 .r1 0x0042#16) ∧
    decodeWords 0b0101110001101000#16 0#16 = .ok (.qsubReg .r6 .r1) ∧
    decodeWords 0b0101110001101100#16 0x0042#16 = .ok (.qsubImm .r6 .r1 0x0042#16) ∧
    decodeWords 0b0101110001110100#16 0x0005#16 = .ok (.scv .r6 .r1 0x0005#16) := by decide

theorem test_decode_branch_and_jump_1 :
    decodeWords 0b0110000000000101#16 0x0042#16 = .ok (.beq 0x0042#16) ∧
    decodeWords 0b0110000000001101#16 0x0042#16 = .ok (.bne 0x0042#16) ∧
    decodeWords 0b0110000000010101#16 0x0042#16 = .ok (.blt 0x0042#16) ∧
    decodeWords 0b0110000000011101#16 0x0042#16 = .ok (.ble 0x0042#16) ∧
    decodeWords 0b0110000000100101#16 0x0042#16 = .ok (.bgt 0x0042#16) ∧
    decodeWords 0b0110000000101101#16 0x0042#16 = .ok (.bge 0x0042#16) ∧
    decodeWords 0b0110000000110101#16 0x0042#16 = .ok (.jmp 0x0042#16) ∧
    decodeWords 0b0110000000111101#16 0x0042#16 = .ok (.call 0x0042#16) := by decide

theorem test_decode_branch_and_jump_2 :
    decodeWords 0b0110000000111000#16 0#16 = .ok .ret := by decide

theorem test_decode_stack :
    decodeWords 0b0111110000000000#16 0#16 = .ok (.push .r6) ∧
    decodeWords 0b0111110000001000#16 0#16 = .ok (.pop .r6) := by decide

theorem test_decode_mmio_and_atomic :
    decodeWords 0b1000110000000011#16 0x0042#16 = .ok (.inp .r6 0x0042#16) ∧
    decodeWords 0b1000110000001011#16 0x0042#16 = .ok (.out .r6 0x0042#16) ∧
    decodeWords 0b1001110000000011#16 0x0042#16 = .ok (.bset .r6 0x0042#16) ∧
    decodeWords 0b1001110000001011#16 0x0042#16 = .ok (.bclr .r6 0x0042#16) ∧
    decodeWords 0b1001110000010011#16 0x0042#16 = .ok (.btest .r6 0x0042#16) := by decide

theorem test_decode_event :
    decodeWords 0b1010000000000000#16 0#16 = .ok .ewait ∧
    decodeWords 0b1010110000001000#16 0#16 = .ok (.eget .r6) ∧
    decodeWords 0b1010000000010000#16 0#16 = .ok .eret := by decide

/-- 95_test_vectors.md, "FAULT(ILLEGAL), 5" rows of T1 to T8: primary words that are no instruction. -/
theorem test_decode_refuses :
    [0x0001#16, 0x0200#16, 0x0040#16, 0x0028#16, 0x0020#16, 0x0224#16, 0x0058#16, 0xB000#16, 0x1444#16, 0x1448#16, 0x1441#16, 0x22C0#16,
      0x22C4#16, 0x22C3#16, 0x22C6#16, 0x427C#16, 0x5670#16, 0x567C#16, 0x6205#16, 0x6045#16, 0x6001#16, 0x7040#16, 0x7001#16,
      0x7010#16, 0x8243#16, 0x8213#16, 0x8201#16, 0xA200#16, 0xA018#16, 0xA012#16].all
      (fun w => decide (decodeWords w 0#16 = .error .illegalPrimary)) = true := by decide

/-- T1, T2, T4: extension words that are refused, with the form's base cost. -/
theorem test_decode_refuses_extension :
    decodeWords 0x0024#16 0x0102#16 = .error (.illegalExtension 1) ∧ decodeWords 0x22C2#16 0x00FE#16 = .error (.illegalExtension 2) ∧
    decodeWords 0x5474#16 0x8010#16 = .error (.illegalExtension 1) := by decide

/-- R132: 0x22C2 0x0005 is LOAD R1, [R3 + 5]; in bytes the high byte of each word comes first (R64). -/
theorem test_decode_bytes_high_byte_first :
    decodeBytes [0x22#8, 0xC2#8, 0x00#8, 0x05#8, 0xA0#8] = .ok (.loadDisp .r1 .r3 0x0005#16, [0xA0#8]) ∧
    encodeBytes (.loadDisp .r1 .r3 0x0005#16) = [0x22#8, 0xC2#8, 0x00#8, 0x05#8] := by decide

theorem test_decode_table_word :
    decodeTableWord 32 0x000522C2 = some (.loadDisp .r1 .r3 0x0005#16) ∧ decodeTableWord 16 0x4640 = some (.addReg .r3 .r1) := by decide

/-! ## One step. The states are those of 95_test_vectors.md "Conventions" -/

/-- RAM code at 0x4000, the three vectors in ROM. -/
def start : State :=
  { State.reset with
    pc := 0x4000#16
    mem := (Memory.writeWord (Memory.writeWord (Memory.writeWord [] 0x0008#16 0x0200#16) 0x000A#16 0x0300#16) 0x000C#16 0x0400#16) }

/-- The state with a word in memory. -/
def put (a v : Word) (s : State) : State := s.setMem (s.mem.writeWord a v)

/-- The state after a step, or the state itself where the step stops. -/
def stepped (s : State) : State :=
  match step s with
  | .next t => t
  | .fault _ => s
  | .refused _ => s

/-- The step of the words `w`, `x` placed at PC. -/
def run (w x : Word) (s : State) : State := stepped (put s.pc w (put (s.pc + 2#16) x s))

/-- PC, TICK and FLAGS. -/
def ptf (s : State) : Word × Word × Word := (s.pc, s.tick, s.flags)

theorem test_withFetchWord_places_both_words :
    (stepped (State.reset.withFetchWord 32 0x12341404)).reg .r2 = 0x1234#16 := by decide

/-- T1. -/
theorem test_nop_sync :
    ptf (run 0x0000#16 0#16 (start.setFlags 0x001F#16)) = (0x4002#16, 1#16, 0x001F#16) ∧
    ptf (run 0x0008#16 0#16 (start.setFlags 0x001F#16)) = (0x4002#16, 1#16, 0x001F#16) := by decide

/-- T1: HALT, then the input `tick`. -/
theorem test_halt :
    (run 0x0010#16 0#16 (start.setTick 10#16)).runState = .haltTick ∧ (run 0x0010#16 0#16 (start.setTick 10#16)).tick = 11#16 ∧
    (tickBoundary (run 0x0010#16 0#16 start)).runState = .run := by decide

/-- T1: TRAP R3. -/
theorem test_trap :
    let t := run 0x0618#16 0#16 ((start.setReg .r3 0x1234#16).setFlags 0x001F#16)
    t.cause = 0x1034#16 ∧ t.reg .r0 = 0x0034#16 ∧ t.mem.readWord 0xDFFE#16 = 0x4002#16 ∧ t.mem.readWord 0xDFFC#16 = 0x001F#16 ∧
    t.mem.readWord 0xDFFA#16 = 0x1034#16 ∧ t.sp = 0xDFFA#16 ∧ t.hctx = [.trap] ∧ ptf t = (0x0200#16, 6#16, 0x000F#16) := by decide

/-- T1: SWI #0xFF. -/
theorem test_swi :
    let t := run 0x0024#16 0x00FF#16 start
    t.cause = 0x10FF#16 ∧ t.reg .r0 = 0x00FF#16 ∧ t.mem.readWord 0xDFFE#16 = 0x4004#16 ∧ t.tick = 6#16 := by decide

/-- The step took the FAULT dispatch with SP 0xDFFA, these TICK and FLAGS, and its kind's counter at 1. The fault codes are open
(log entry 5), so R0, CAUSE and the frame's CAUSE are not looked at. -/
def faulted (k : FaultKind) (tick fl : Word) (t : State) : Bool :=
  decide (t.tick = tick ∧ t.flags = fl ∧ t.sp = 0xDFFA#16 ∧ t.hctx = [.fault] ∧ t.diag.faultCount.get k = 1#16 ∧ t.runState = .run)

/-- T1: SWI with a high byte that is not 0; T1's 0xB000. -/
theorem test_illegal_dispatch :
    faulted .illegal 6#16 0x0020#16 (run 0x0024#16 0x0102#16 start) = true ∧
    faulted .illegal 5#16 0x0020#16 (run 0xB000#16 0#16 start) = true := by decide

/-- The frame and the vector of a FAULT entry, with 0x2A standing for the open code (T9 conventions). -/
theorem test_fault_entry :
    (match enter .fault 0x2A#8 0x4000#16 (start.setFlags 0x0013#16) with
      | .ok t => decide (t.cause = 0x302A#16 ∧ t.reg .r0 = 0x002A#16 ∧ t.mem.readWord 0xDFFE#16 = 0x4000#16 ∧
          t.mem.readWord 0xDFFC#16 = 0x0013#16 ∧ t.mem.readWord 0xDFFA#16 = 0x302A#16 ∧ t.flags = 0x0023#16 ∧ t.pc = 0x0400#16)
      | .error _ => false) = true := by decide

/-- T2: MOV R2, R1. -/
theorem test_mov_register :
    let t := run 0x1440#16 0#16 ((start.setReg .r1 0x8000#16).setFlags 0x003D#16)
    t.reg .r2 = 0x8000#16 ∧ ptf t = (0x4002#16, 1#16, 0x0032#16) := by decide

/-- T2: MOV R2, #0. -/
theorem test_mov_immediate :
    let t := run 0x1404#16 0x0000#16 ((start.setReg .r2 5#16).setFlags 0x000E#16)
    t.reg .r2 = 0#16 ∧ ptf t = (0x4004#16, 1#16, 0x0001#16) := by decide

/-- T2: LOAD R1, [R3]. -/
theorem test_load_indirect :
    let t := run 0x22C1#16 0#16 (put 0x4100#16 0xBEEF#16 ((start.setReg .r3 0x4100#16).setFlags 0x000C#16))
    t.reg .r1 = 0xBEEF#16 ∧ ptf t = (0x4002#16, 2#16, 0x0002#16) := by decide

/-- T2: LOAD R1, [R3-2]. -/
theorem test_load_displacement :
    let t := run 0x22C2#16 0xFFFE#16 (put 0x4100#16 0x7777#16 (start.setReg .r3 0x4102#16))
    t.reg .r1 = 0x7777#16 ∧ ptf t = (0x4004#16, 2#16, 0#16) := by decide

/-- T2: the effective address wraps. -/
theorem test_load_displacement_wraps :
    (run 0x22C2#16 0x007F#16 (put 0x007E#16 0x1111#16 (start.setReg .r3 0xFFFF#16))).reg .r1 = 0x1111#16 := by decide

/-- T2: LOAD R1, [0x0008] and LOAD R1, [PC+4]. -/
theorem test_load_absolute_and_pc_relative :
    (run 0x2203#16 0x0008#16 start).reg .r1 = 0x0200#16 ∧ (run 0x2205#16 0x0004#16 (put 0x4008#16 0x4242#16 start)).reg .r1 = 0x4242#16 := by
  decide

/-- T2: the Reserved region, cost 2 + 5. -/
theorem test_load_reserved : faulted .access 7#16 0x0020#16 (run 0x2203#16 0xF100#16 start) = true := by decide

/-- T2: LOAD from DIAG and from MMIO gives the open parameter's value. -/
theorem test_load_diag_and_device :
    (run 0x2203#16 0xF000#16 start).reg .r1 = Config.diagRead Diag.blank false 0xF000#16 ∧
    (run 0x2203#16 0xE010#16 start).reg .r1 = Config.deviceRead 0 [] 0xE010#16 := ⟨rfl, rfl⟩

/-- T2: STORE R1, [R3]. -/
theorem test_store_indirect :
    let t := run 0x32C1#16 0#16 (((start.setReg .r1 0xABCD#16).setReg .r3 0x4100#16).setFlags 0x000F#16)
    t.mem.readWord 0x4100#16 = 0xABCD#16 ∧ t.mem.read 0x4100 = 0xAB#8 ∧ ptf t = (0x4002#16, 2#16, 0x000F#16) := by decide

/-- By R103 and R105: STORE R1, [R3-2] and STORE R1, [0x4100]. -/
theorem test_store_displacement_and_absolute :
    (run 0x32C2#16 0xFFFE#16 ((start.setReg .r1 0xABCD#16).setReg .r3 0x4102#16)).mem.readWord 0x4100#16 = 0xABCD#16 ∧
    (run 0x3203#16 0x4100#16 (start.setReg .r1 0xABCD#16)).mem.readWord 0x4100#16 = 0xABCD#16 := by decide

/-- T2: a store to ROM is a fault. -/
theorem test_store_rom : faulted .access 7#16 0x0020#16 (run 0x3203#16 0x0100#16 (start.setReg .r1 1#16)) = true := by decide

/-- T2: STORE R1, [PC-4] overwrites its own first word. -/
theorem test_store_pc_relative :
    let t := run 0x3205#16 0xFFFC#16 start
    t.mem.readWord 0x4000#16 = 0#16 ∧ ptf t = (0x4004#16, 2#16, 0#16) := by decide

/-- R1 = a, FLAGS = fl, then the immediate form 'op R2, R1, #b': R2 and FLAGS. -/
def imm (w a b fl : Word) : Word × Word :=
  let t := run w b ((start.setReg .r1 a).setFlags fl)
  (t.reg .r2, t.flags)

/-- T3, immediate form: (A, B, FLAGS before), (result, FLAGS after). -/
theorem test_add_immediate :
    imm 0x4444#16 0x0001#16 0x0002#16 0x0010#16 = (0x0003#16, 0x0010#16) ∧
    imm 0x4444#16 0xFFFF#16 0x0001#16 0x0010#16 = (0x0000#16, 0x0015#16) ∧
    imm 0x4444#16 0x7FFF#16 0x0001#16 0x0010#16 = (0x8000#16, 0x001A#16) ∧
    imm 0x4444#16 0x8000#16 0x8000#16 0x0010#16 = (0x0000#16, 0x001D#16) ∧
    imm 0x4444#16 0x8000#16 0xFFFF#16 0x0010#16 = (0x7FFF#16, 0x001C#16) ∧
    imm 0x4444#16 0x0000#16 0x0000#16 0x0010#16 = (0x0000#16, 0x0011#16) := by decide

/-- T3, immediate form: (A, B, FLAGS before), (result, FLAGS after). -/
theorem test_sub_immediate :
    imm 0x444C#16 0x0005#16 0x0003#16 0x0000#16 = (0x0002#16, 0x0000#16) ∧
    imm 0x444C#16 0x0003#16 0x0005#16 0x0000#16 = (0xFFFE#16, 0x0006#16) ∧
    imm 0x444C#16 0x8000#16 0x0001#16 0x0000#16 = (0x7FFF#16, 0x0008#16) ∧
    imm 0x444C#16 0x7FFF#16 0xFFFF#16 0x0000#16 = (0x8000#16, 0x000E#16) ∧
    imm 0x444C#16 0x0000#16 0x8000#16 0x0000#16 = (0x8000#16, 0x000E#16) ∧
    imm 0x444C#16 0x1234#16 0x1234#16 0x0000#16 = (0x0000#16, 0x0001#16) := by decide

/-- T3, immediate form: (A, B, FLAGS before), (result, FLAGS after). -/
theorem test_cmp_immediate :
    imm 0x407C#16 0x0005#16 0x0003#16 0x000F#16 = (0x0000#16, 0x0000#16) ∧
    imm 0x407C#16 0x0003#16 0x0005#16 0x000F#16 = (0x0000#16, 0x0006#16) ∧
    imm 0x407C#16 0x8000#16 0x0001#16 0x000F#16 = (0x0000#16, 0x0008#16) ∧
    imm 0x407C#16 0x1234#16 0x1234#16 0x000F#16 = (0x0000#16, 0x0001#16) ∧
    imm 0x407C#16 0xFFFF#16 0x0001#16 0x000F#16 = (0x0000#16, 0x0002#16) := by decide

/-- T3, immediate form: (A, B, FLAGS before), (result, FLAGS after). -/
theorem test_and_immediate :
    imm 0x4454#16 0xF0F0#16 0x0FF0#16 0x000C#16 = (0x00F0#16, 0x0000#16) ∧
    imm 0x4454#16 0xFFFF#16 0x8000#16 0x000C#16 = (0x8000#16, 0x0002#16) ∧
    imm 0x4454#16 0x0000#16 0x0000#16 0x000C#16 = (0x0000#16, 0x0001#16) := by decide

/-- T3, immediate form: (A, B, FLAGS before), (result, FLAGS after). -/
theorem test_or_immediate :
    imm 0x445C#16 0xF0F0#16 0x0FF0#16 0x000C#16 = (0xFFF0#16, 0x0002#16) := by decide

/-- T3, immediate form: (A, B, FLAGS before), (result, FLAGS after). -/
theorem test_xor_immediate :
    imm 0x4464#16 0xF0F0#16 0x0FF0#16 0x000C#16 = (0xFF00#16, 0x0002#16) ∧
    imm 0x4464#16 0xFFFF#16 0x8000#16 0x000C#16 = (0x7FFF#16, 0x0000#16) ∧
    imm 0x4464#16 0x1234#16 0x1234#16 0x000C#16 = (0x0000#16, 0x0001#16) := by decide

/-- T3, immediate form: (A, B, FLAGS before), (result, FLAGS after). -/
theorem test_shl_immediate :
    imm 0x446C#16 0x8001#16 0x0001#16 0x0000#16 = (0x0002#16, 0x0004#16) ∧
    imm 0x446C#16 0x8001#16 0x0000#16 0x0004#16 = (0x8001#16, 0x0006#16) ∧
    imm 0x446C#16 0x8001#16 0x0000#16 0x0000#16 = (0x8001#16, 0x0002#16) ∧
    imm 0x446C#16 0x0001#16 0x000F#16 0x0000#16 = (0x8000#16, 0x0002#16) ∧
    imm 0x446C#16 0x0003#16 0x0010#16 0x0004#16 = (0x0003#16, 0x0004#16) ∧
    imm 0x446C#16 0x0001#16 0x001F#16 0x0000#16 = (0x8000#16, 0x0002#16) ∧
    imm 0x446C#16 0xFFFF#16 0x0004#16 0x0000#16 = (0xFFF0#16, 0x0006#16) ∧
    imm 0x446C#16 0x4000#16 0x0002#16 0x0000#16 = (0x0000#16, 0x0005#16) := by decide

/-- T3, immediate form: (A, B, FLAGS before), (result, FLAGS after). -/
theorem test_shr_immediate :
    imm 0x4474#16 0x8001#16 0x0001#16 0x0000#16 = (0xC000#16, 0x0006#16) ∧
    imm 0x4474#16 0x8000#16 0x000F#16 0x0000#16 = (0xFFFF#16, 0x0002#16) ∧
    imm 0x4474#16 0x7FFF#16 0x000F#16 0x0000#16 = (0x0000#16, 0x0005#16) ∧
    imm 0x4474#16 0x8001#16 0x0000#16 0x0004#16 = (0x8001#16, 0x0006#16) ∧
    imm 0x4474#16 0x0006#16 0x0002#16 0x0000#16 = (0x0001#16, 0x0004#16) ∧
    imm 0x4474#16 0x8000#16 0x0010#16 0x0000#16 = (0x8000#16, 0x0002#16) := by decide

/-- T4, immediate form: (A, B, FLAGS before), (result, FLAGS after). -/
theorem test_mul_immediate :
    imm 0x5444#16 0x0003#16 0x0005#16 0x000C#16 = (0x000F#16, 0x000C#16) ∧
    imm 0x5444#16 0xFFFF#16 0xFFFF#16 0x000C#16 = (0x0001#16, 0x000C#16) ∧
    imm 0x5444#16 0x0100#16 0x0100#16 0x000C#16 = (0x0000#16, 0x000C#16) ∧
    imm 0x5444#16 0x1234#16 0x5678#16 0x000C#16 = (0x0060#16, 0x000C#16) := by decide

/-- T4, immediate form: (A, B, FLAGS before), (result, FLAGS after). -/
theorem test_mulh_immediate :
    imm 0x544C#16 0x0003#16 0x0005#16 0x000C#16 = (0x0000#16, 0x000C#16) ∧
    imm 0x544C#16 0xFFFF#16 0xFFFF#16 0x000C#16 = (0x0000#16, 0x000C#16) ∧
    imm 0x544C#16 0xFFFF#16 0x0001#16 0x000C#16 = (0xFFFF#16, 0x000C#16) ∧
    imm 0x544C#16 0x0100#16 0x0100#16 0x000C#16 = (0x0001#16, 0x000C#16) ∧
    imm 0x544C#16 0x8000#16 0x8000#16 0x000C#16 = (0x4000#16, 0x000C#16) ∧
    imm 0x544C#16 0x8000#16 0x7FFF#16 0x000C#16 = (0xC000#16, 0x000C#16) ∧
    imm 0x544C#16 0x1234#16 0x5678#16 0x000C#16 = (0x0626#16, 0x000C#16) ∧
    imm 0x544C#16 0x0180#16 0x0200#16 0x000C#16 = (0x0003#16, 0x000C#16) := by decide

/-- T4, immediate form: (A, B, FLAGS before), (result, FLAGS after). -/
theorem test_div_immediate :
    imm 0x5454#16 0x0007#16 0x0002#16 0x000C#16 = (0x0003#16, 0x000C#16) ∧
    imm 0x5454#16 0xFFFF#16 0x0002#16 0x000C#16 = (0x7FFF#16, 0x000C#16) ∧
    imm 0x5454#16 0x8000#16 0xFFFF#16 0x000C#16 = (0x0000#16, 0x000C#16) ∧
    imm 0x5454#16 0x0005#16 0x0000#16 0x000C#16 = (0x0000#16, 0x000C#16) := by decide

/-- T4, immediate form: (A, B, FLAGS before), (result, FLAGS after). -/
theorem test_mod_immediate :
    imm 0x545C#16 0x0007#16 0x0002#16 0x000C#16 = (0x0001#16, 0x000C#16) ∧
    imm 0x545C#16 0x8000#16 0xFFFF#16 0x000C#16 = (0x8000#16, 0x000C#16) ∧
    imm 0x545C#16 0xFFFF#16 0x0100#16 0x000C#16 = (0x00FF#16, 0x000C#16) ∧
    imm 0x545C#16 0x0005#16 0x0000#16 0x000C#16 = (0x0000#16, 0x000C#16) := by decide

/-- T4, immediate form: (A, B, FLAGS before), (result, FLAGS after). -/
theorem test_qadd_immediate :
    imm 0x5464#16 0x7000#16 0x1000#16 0x000C#16 = (0x7FFF#16, 0x0000#16) ∧
    imm 0x5464#16 0x7000#16 0x0FFF#16 0x000C#16 = (0x7FFF#16, 0x0000#16) ∧
    imm 0x5464#16 0x8000#16 0xFFFF#16 0x000C#16 = (0x8000#16, 0x0002#16) ∧
    imm 0x5464#16 0x8000#16 0x8000#16 0x000C#16 = (0x8000#16, 0x0002#16) ∧
    imm 0x5464#16 0x0001#16 0xFFFF#16 0x000C#16 = (0x0000#16, 0x0001#16) ∧
    imm 0x5464#16 0xFFFF#16 0xFFFF#16 0x000C#16 = (0xFFFE#16, 0x0002#16) := by decide

/-- T4, immediate form: (A, B, FLAGS before), (result, FLAGS after). -/
theorem test_qsub_immediate :
    imm 0x546C#16 0x8000#16 0x0001#16 0x000C#16 = (0x8000#16, 0x0002#16) ∧
    imm 0x546C#16 0x7FFF#16 0xFFFF#16 0x000C#16 = (0x7FFF#16, 0x0000#16) ∧
    imm 0x546C#16 0x0000#16 0x8000#16 0x000C#16 = (0x7FFF#16, 0x0000#16) ∧
    imm 0x546C#16 0x0005#16 0x0005#16 0x000C#16 = (0x0000#16, 0x0001#16) ∧
    imm 0x546C#16 0x0003#16 0x0005#16 0x000C#16 = (0xFFFE#16, 0x0002#16) := by decide

/-- T4, immediate form: (A, B, FLAGS before), (result, FLAGS after). -/
theorem test_scv_immediate :
    imm 0x5474#16 0x0001#16 0x0004#16 0x000C#16 = (0x0010#16, 0x0000#16) ∧
    imm 0x5474#16 0x0800#16 0x0004#16 0x000C#16 = (0x7FFF#16, 0x0000#16) ∧
    imm 0x5474#16 0x07FF#16 0x0004#16 0x000C#16 = (0x7FF0#16, 0x0000#16) ∧
    imm 0x5474#16 0xF800#16 0x0004#16 0x000C#16 = (0x8000#16, 0x0002#16) ∧
    imm 0x5474#16 0xF7FF#16 0x0004#16 0x000C#16 = (0x8000#16, 0x0002#16) ∧
    imm 0x5474#16 0xFFFF#16 0x000F#16 0x000C#16 = (0x8000#16, 0x0002#16) ∧
    imm 0x5474#16 0x0001#16 0x000F#16 0x000C#16 = (0x7FFF#16, 0x0000#16) ∧
    imm 0x5474#16 0x0001#16 0x000E#16 0x000C#16 = (0x4000#16, 0x0000#16) ∧
    imm 0x5474#16 0x1234#16 0x0000#16 0x000C#16 = (0x1234#16, 0x0000#16) ∧
    imm 0x5474#16 0x8000#16 0x8001#16 0x000C#16 = (0xC000#16, 0x0002#16) ∧
    imm 0x5474#16 0x8000#16 0x800F#16 0x000C#16 = (0xFFFF#16, 0x0002#16) ∧
    imm 0x5474#16 0x7FFF#16 0x800F#16 0x000C#16 = (0x0000#16, 0x0001#16) ∧
    imm 0x5474#16 0xFFFB#16 0x8001#16 0x000C#16 = (0xFFFD#16, 0x0002#16) := by decide

/-- The register file with R0 to R7 as given. -/
def regsOf (a b c d e f g h : Word) (s : State) : State := { s with regs := ⟨a, b, c, d, e, f, g, h⟩ }

/-- The register form 'op R6, R6' (RD = RA = 6) on R0 to R7 = 0x0101, 0x0202, 0x0003, 0x0404, 0x7505, 0x0003, 0x8F01, 0x0707: R6 and FLAGS.
B is the register with the number of the sub-opcode (R121); the results are worked out by hand from R161 to R186. -/
def reg6 (w : Word) : Word × Word :=
  let t := run w 0#16 (regsOf 0x0101#16 0x0202#16 0x0003#16 0x0404#16 0x7505#16 0x0003#16 0x8F01#16 0x0707#16 start)
  (t.reg .r6, t.flags)

theorem test_alu_register_forms :
    reg6 0x4D80#16 = (0x9002#16, 0x0002#16) ∧ reg6 0x4D88#16 = (0x8CFF#16, 0x0002#16) ∧ reg6 0x4D90#16 = (0x0001#16, 0x0000#16) ∧
    reg6 0x4D98#16 = (0x8F05#16, 0x0002#16) ∧ reg6 0x4DA0#16 = (0xFA04#16, 0x0002#16) ∧ reg6 0x4DA8#16 = (0x7808#16, 0x0000#16) ∧
    reg6 0x4DB0#16 = (0xC780#16, 0x0006#16) := by decide

theorem test_helper_register_forms :
    reg6 0x5D80#16 = (0x9001#16, 0x0000#16) ∧ reg6 0x5D88#16 = (0xFF1D#16, 0x0000#16) ∧ reg6 0x5D90#16 = (0x2FAB#16, 0x0000#16) ∧
    reg6 0x5D98#16 = (0x0275#16, 0x0000#16) ∧ reg6 0x5DA0#16 = (0x0406#16, 0x0000#16) ∧ reg6 0x5DA8#16 = (0x8EFE#16, 0x0002#16) := by decide

/-- T3, T4, register forms. -/
theorem test_register_forms_of_the_vectors :
    (run 0x4640#16 0#16 ((start.setReg .r0 7#16).setReg .r1 5#16)).reg .r3 = 0x000C#16 ∧
    (run 0x4688#16 0#16 ((start.setReg .r1 7#16).setReg .r2 5#16)).reg .r3 = 0xFFFE#16 ∧
    (run 0x4078#16 0#16 ((start.setReg .r1 7#16).setReg .r7 7#16)).flags = 0x0001#16 ∧
    (run 0x4DB0#16 0#16 (start.setReg .r6 0x8003#16)).reg .r6 = 0xF000#16 ∧
    (run 0x5650#16 0#16 ((start.setReg .r1 100#16).setReg .r2 7#16)).reg .r3 = 14#16 ∧
    (run 0x5480#16 0#16 ((start.setReg .r0 300#16).setReg .r2 300#16)).reg .r2 = 0x5F90#16 := by decide

/-- T4: cycles of the helpers. -/
theorem test_helper_cycles :
    (run 0x5444#16 3#16 start).tick = 2#16 ∧ (run 0x544C#16 3#16 start).tick = 2#16 ∧ (run 0x5454#16 0#16 start).tick = 3#16 ∧
    (run 0x545C#16 0#16 start).tick = 3#16 ∧ (run 0x5464#16 3#16 start).tick = 1#16 ∧ (run 0x5474#16 3#16 start).tick = 1#16 := by decide

/-- T4: SCV with a bit of 14..4 set: R2 unchanged, 6 cycles, FLAGS 0x002C. -/
theorem test_scv_illegal : faulted .illegal 6#16 0x002C#16 (run 0x5474#16 0x0010#16 (start.setFlags 0x000C#16)) = true := by decide

/-- T5: the eight rows V N Z = 000, 001, 010, 011, 100, 101, 110, 111: 'true' where the branch with displacement 0x0010 is taken. -/
def takenRow (w : Word) : List Bool :=
  [0x0#16, 0x1#16, 0x2#16, 0x3#16, 0x8#16, 0x9#16, 0xA#16, 0xB#16].map fun fl =>
    decide (ptf (run w 0x0010#16 (start.setFlags fl)) = (0x4014#16, 2#16, fl))

/-- The same rows: 'true' where the branch is not taken. -/
def untakenRow (w : Word) : List Bool :=
  [0x0#16, 0x1#16, 0x2#16, 0x3#16, 0x8#16, 0x9#16, 0xA#16, 0xB#16].map fun fl =>
    decide (ptf (run w 0x0010#16 (start.setFlags fl)) = (0x4004#16, 1#16, fl))

theorem test_branches_taken :
    takenRow 0x6005#16 = [false, true, false, true, false, true, false, true] ∧
    takenRow 0x600D#16 = [true, false, true, false, true, false, true, false] ∧
    takenRow 0x6015#16 = [false, false, true, true, true, true, false, false] ∧
    takenRow 0x601D#16 = [false, true, true, true, true, true, false, true] ∧
    takenRow 0x6025#16 = [true, false, false, false, false, false, true, false] ∧
    takenRow 0x602D#16 = [true, true, false, false, false, false, true, true] := by decide

theorem test_branches_not_taken :
    [0x6005#16, 0x600D#16, 0x6015#16, 0x601D#16, 0x6025#16, 0x602D#16].all
      (fun w => decide (untakenRow w = (takenRow w).map (!·))) = true := by decide

/-- T5: JMP to itself, and to an odd address, which the next fetch refuses. -/
theorem test_jmp :
    ptf (run 0x6035#16 0xFFFC#16 start) = (0x4000#16, 2#16, 0#16) ∧ ptf (run 0x6035#16 0x0001#16 start) = (0x4005#16, 2#16, 0#16) ∧
    faulted .fetch 7#16 0x0020#16 (stepped (run 0x6035#16 0x0001#16 start)) = true ∧
    (stepped (run 0x6035#16 0x0001#16 start)).diag.lastFaultPc = 0x4005#16 := by decide

/-- T5: CALL. -/
theorem test_call :
    let t := run 0x603D#16 0x0100#16 start
    t.mem.readWord 0xDFFE#16 = 0x4004#16 ∧ t.sp = 0xDFFE#16 ∧ ptf t = (0x4104#16, 2#16, 0#16) := by decide

/-- T5: CALL with SP = 0x4000: nothing can be pushed. -/
theorem test_call_no_stack :
    (run 0x603D#16 0x0100#16 (start.setSp 0x4000#16)).runState = .haltPerm ∧ (run 0x603D#16 0x0100#16 (start.setSp 0x4000#16)).pc = 0x4000#16 := by
  decide

/-- T5: RET. -/
theorem test_ret :
    let t := run 0x6038#16 0#16 (put 0xDFFE#16 0x4004#16 (start.setSp 0xDFFE#16))
    t.sp = 0xE000#16 ∧ ptf t = (0x4004#16, 2#16, 0#16) := by decide

/-- T5: RET with SP = 0xE000 pops what the device answers. -/
theorem test_ret_device :
    (run 0x6038#16 0#16 start).pc = Config.deviceRead 0 [] 0xE000#16 ∧ (run 0x6038#16 0#16 start).sp = 0xE002#16 := ⟨rfl, rfl⟩

/-- T6: PUSH R3. -/
theorem test_push :
    let t := run 0x7600#16 0#16 ((start.setReg .r3 0xBEEF#16).setFlags 0x0003#16)
    t.mem.readWord 0xDFFE#16 = 0xBEEF#16 ∧ t.sp = 0xDFFE#16 ∧ ptf t = (0x4002#16, 1#16, 0x0003#16) := by decide

/-- T6: POP R5. -/
theorem test_pop :
    let t := run 0x7A08#16 0#16 (put 0xDFFE#16 0x1234#16 ((start.setSp 0xDFFE#16).setFlags 0x000F#16))
    t.reg .r5 = 0x1234#16 ∧ t.sp = 0xE000#16 ∧ ptf t = (0x4002#16, 1#16, 0x000F#16) := by decide

/-- T7: IN R1. -/
theorem test_in :
    (run 0x8203#16 0xE010#16 start).reg .r1 = Config.deviceRead 0 [] 0xE010#16 ∧ (run 0x8203#16 0xE010#16 start).tick = 4#16 ∧
    (run 0x8203#16 0xE010#16 start).bus = [.read 0xE010#16 (Config.deviceRead 0 [] 0xE010#16)] := ⟨rfl, rfl, rfl⟩

/-- T7: IN from an odd address, from RAM and from an odd address of RAM: nothing reaches a device. -/
theorem test_in_faults :
    faulted .mmio 9#16 0x0020#16 (run 0x8203#16 0xE011#16 start) = true ∧ faulted .access 9#16 0x0020#16 (run 0x8203#16 0x4000#16 start) = true ∧
    faulted .mmio 9#16 0x0020#16 (run 0x8203#16 0x4001#16 start) = true ∧
    (run 0x8203#16 0x4001#16 start).bus = [] := by decide

/-- T7: OUT R1. -/
theorem test_out :
    (run 0x820B#16 0xE010#16 (start.setReg .r1 0xCAFE#16)).bus =
      (if Config.voterAllows 0 [] 0xE010#16 0xCAFE#16 then [.write 0xE010#16 0xCAFE#16] else []) ∧
    (run 0x820B#16 0xE010#16 (start.setReg .r1 0xCAFE#16)).inhibit = !Config.voterAllows 0 [] 0xE010#16 0xCAFE#16 ∧
    (run 0x820B#16 0xE010#16 (start.setReg .r1 0xCAFE#16)).tick = 4#16 := ⟨rfl, rfl, rfl⟩

/-- T7: OUT to DIAG. -/
theorem test_out_diag : faulted .access 9#16 0x0020#16 (run 0x820B#16 0xF000#16 start) = true := by decide

/-- T7: BSET and BCLR on a device word `v`: what the device is asked to take. -/
theorem test_bset_bclr_values :
    0x0100#16 ||| bitMask 0x0013#16 = 0x0108#16 ∧ 0x0008#16 ||| bitMask 0x0003#16 = 0x0008#16 ∧ 0xFFFF#16 &&& ~~~(bitMask 0x0008#16) = 0xFEFF#16 := by decide

/-- T7: BSET and BCLR retire at 4 cycles and leave FLAGS. -/
theorem test_bset_bclr :
    ptf (run 0x9203#16 0xE020#16 (start.setFlags 0x000F#16)) = (0x4004#16, 4#16, 0x000F#16) ∧
    ptf (run 0x920B#16 0xE020#16 (start.setFlags 0x000F#16)) = (0x4004#16, 4#16, 0x000F#16) := ⟨rfl, rfl⟩

/-- T7: BTEST asks the voter nothing: one read, and no write. -/
theorem test_btest :
    (run 0x9213#16 0xE020#16 start).draws = 1 ∧ (run 0x9213#16 0xE020#16 start).tick = 4#16 ∧
    faulted .access 9#16 0x0020#16 (run 0x9213#16 0xD000#16 start) = true := ⟨rfl, rfl, by decide⟩

/-- T8: EWAIT. -/
theorem test_ewait :
    ptf (run 0xA000#16 0#16 start) = (0x4000#16, 0#16, 0#16) ∧
    ptf (run 0xA000#16 0#16 (start.setEvq [7#8])) = (0x4002#16, 1#16, 0#16) ∧ (run 0xA000#16 0#16 (start.setEvq [7#8])).evq = [7#8] :=
  ⟨by decide, by decide, by decide⟩

/-- T8: EGET R3. -/
theorem test_eget :
    let s := (start.setReg .r3 0xFFFF#16).setFlags 0x000F#16
    (run 0xA608#16 0#16 (s.setEvq [7#8, 9#8])).reg .r3 = 0x0007#16 ∧ (run 0xA608#16 0#16 (s.setEvq [7#8, 9#8])).evq = [9#8] ∧
    ptf (run 0xA608#16 0#16 (s.setEvq [7#8, 9#8])) = (0x4002#16, 1#16, 0x000F#16) ∧ (run 0xA608#16 0#16 s).reg .r3 = 0#16 := by decide

/-- A handler's frame at 0xDFFA: CAUSE, FLAGS, PC. -/
def framed (c f p : Word) : State :=
  put 0xDFFA#16 c (put 0xDFFC#16 f (put 0xDFFE#16 p ((start.setSp 0xDFFA#16).setHctx [.trap])))

/-- T8: ERET in handler context. -/
theorem test_eret :
    let t := run 0xA010#16 0#16 (framed 0x1002#16 0xFFFF#16 0x4004#16)
    t.cause = 0x1002#16 ∧ t.sp = 0xE000#16 ∧ t.hctx = [] ∧ ptf t = (0x4004#16, 4#16, 0x003F#16) := by decide

/-- T8: ERET outside handler context. -/
theorem test_eret_context :
    let t := run 0xA010#16 0#16 (start.setSp 0xDFFA#16)
    t.sp = 0xDFF4#16 ∧ t.tick = 9#16 ∧ t.flags = 0x0020#16 ∧ t.hctx = [.fault] ∧ t.diag.faultCount.eretContext = 1#16 := by
  decide

/-- T9: the EVENT dispatch. -/
theorem test_event_dispatch :
    let t := stepped ((start.setFlags 0x0011#16).setEvq [7#8, 9#8])
    t.cause = 0x2007#16 ∧ t.reg .r0 = 7#16 ∧ t.mem.readWord 0xDFFE#16 = 0x4000#16 ∧ t.mem.readWord 0xDFFC#16 = 0x0011#16 ∧
    t.mem.readWord 0xDFFA#16 = 0x2007#16 ∧ t.evq = [9#8] ∧ t.hctx = [.event] ∧ ptf t = (0x0300#16, 5#16, 0x0001#16) := by decide

/-- T9: a fifth event is lost and latches QOVF, and the next step is its fault. -/
theorem test_queue_overflow :
    let s := start.setEvq [1#8, 2#8, 3#8, 4#8]
    (enqueue 5#8 s).evq = [1#8, 2#8, 3#8, 4#8] ∧ (enqueue 5#8 s).qovf = true ∧ (stepped (enqueue 5#8 s)).qovf = false ∧
    faulted .evqOverflow 5#16 0x0020#16 (stepped (enqueue 5#8 s)) = true ∧ (stepped (enqueue 5#8 s)).evq = [1#8, 2#8, 3#8, 4#8] := by decide

/-- T9: the double fault. -/
theorem test_double_fault :
    let t := run 0xB000#16 0#16 (start.setHctx [.fault])
    t.runState = .haltPerm ∧ t.sp = 0xE000#16 ∧ ptf t = (0x4000#16, 0#16, 0#16) ∧ t.diag.lastFaultPc = 0x4000#16 := by decide

/-- T9: the budget edge and the recovery. -/
theorem test_budget :
    (run 0x2203#16 0x4100#16 (start.setTick 637#16)).runState = .run ∧
    (run 0x2203#16 0x4100#16 (start.setTick 638#16)).runState = .haltBudget ∧
    (run 0x2203#16 0x4100#16 (start.setTick 638#16)).diag.lastFaultPc = 0x4004#16 ∧
    (tickBoundary (start.setRunState .haltBudget)).pc = 0x0400#16 ∧ (tickBoundary (start.setRunState .haltBudget)).brecov = true := by decide

/-! ## Every statement's hypotheses are met. `witness_<Name>` belongs to `Obligations.<Name>` -/

/-- Whether a step answers a next state. -/
def answers (s : State) : Bool :=
  match step s with
  | .next _ => true
  | .fault _ => false
  | .refused _ => false

theorem step_stepped (s : State) (h : answers s = true) : step s = .next (stepped s) := by
  unfold answers at h
  unfold stepped
  split at h
  · rename_i t e
    rw [e]
  · cases h
  · cases h

/-- A running core at 0x4000 with a NOP, its TICK as given. -/
def nopAt (tick : Word) : State := put 0x4000#16 0x0000#16 (start.setTick tick)

/-- An ERET at 0x4000 in a handler whose frame has FLAGS.I = 1. -/
def eretEnabling : State := put 0x4000#16 0xA010#16 (framed 0x1002#16 0x0010#16 0x4004#16)

theorem witness_StepKeepsMemoryCanonical : ∃ s t, s.mem.wf = true ∧ step s = .next t :=
  ⟨start, _, by decide, step_stepped _ (by decide)⟩

theorem witness_StepKeepsReservedFlagsZero : ∃ s t, s.reservedFlagsZero ∧ step s = .next t :=
  ⟨eretEnabling, _, by unfold State.reservedFlagsZero; decide, step_stepped _ (by decide)⟩

theorem witness_StepKeepsStackAligned : ∃ s t, s.stackAligned ∧ step s = .next t :=
  ⟨eretEnabling, _, by unfold State.stackAligned; decide, step_stepped _ (by decide)⟩

/-- A full queue, and a fifth event pending. -/
theorem witness_StepKeepsQueueBounded : ∃ s t, s.queueBounded ∧ s.evq.length = 4 ∧ step s = .next t :=
  ⟨(start.setEvq [1#8, 2#8, 3#8, 4#8]).setEnv [[.enqueue 5#8]], _, by unfold State.queueBounded; exact ⟨by decide, rfl⟩, rfl,
    step_stepped _ (by decide)⟩

/-- One cycle below the budget. -/
theorem witness_StepKeepsTickBelowBudget : ∃ s t, s.tickBelowBudget ∧ s.tick = 639#16 ∧ step s = .next t :=
  ⟨nopAt 639#16, _, by unfold State.tickBelowBudget; decide, rfl, step_stepped _ (by decide)⟩

theorem witness_StepNeverChangesRomOrCap : ∃ s t, s.cap = 0x000F#16 ∧ step s = .next t :=
  ⟨start, _, rfl, step_stepped _ (by decide)⟩

theorem witness_OnlyEretEnablesEvents : ∃ s t, step s = .next t ∧ s.flag .i = false ∧ t.flag .i = true :=
  ⟨eretEnabling, _, step_stepped _ (by decide), by decide, by decide⟩

theorem witness_RegistersChangeOnlyAsDestinations :
    ∃ i s t, ∃ q : Reg, exec i s = .next t ∧ destination i ≠ some q ∧ q ≠ .r0 :=
  ⟨.nop, start, _, .r1, rfl, by decide, by decide⟩

/-- R0 at the entry of a TRAP with id 0x34. -/
theorem witness_RegistersChangeOnlyAsDestinations_r0 :
    ∃ i s t, exec i s = .next t ∧ destination i ≠ some .r0 ∧ t.reg .r0 ≠ s.reg .r0 :=
  ⟨.trap .r3, start.setReg .r3 0x1234#16, _, rfl, by decide, by decide⟩

theorem witness_StackPointerMovesOnlyByTwoOrSix : ∃ i s t, exec i s = .next t := ⟨.nop, start, _, rfl⟩

/-- Tick boundary and events, but no reset, pending at a permanently halted core. -/
theorem witness_PermanentHaltEndsOnlyByReset :
    ∃ (s : State) (ids : List Byte), s.runState = .haltPerm ∧ Input.reset ∉ s.pendingInputs ∧ Input.tick ∈ s.pendingInputs ∧
      s.pendingInputs.filter Input.isEnqueue = ids.map Input.enqueue :=
  ⟨(start.setRunState .haltPerm).setEnv [[.enqueue 1#8, .tick, .enqueue 3#8]], [1#8, 3#8], rfl, by decide, by decide, rfl⟩

/-- Five events at a core that HALT stopped, and at one that a budget fault stopped with a full queue. -/
theorem witness_EventsDoNotWakeAHaltedCore :
    ∃ (s : State) (ids : List Byte), s.runState = .haltTick ∧ s.pendingInputs = ids.map Input.enqueue :=
  ⟨(start.setRunState .haltTick).setEnv [[.enqueue 1#8, .enqueue 2#8, .enqueue 3#8, .enqueue 4#8, .enqueue 5#8]],
    [1#8, 2#8, 3#8, 4#8, 5#8], rfl, rfl⟩

theorem witness_EventsDoNotWakeAHaltedCore_budget :
    ∃ (s : State) (ids : List Byte), s.runState = .haltBudget ∧ s.evq.length = 4 ∧ s.pendingInputs = ids.map Input.enqueue :=
  ⟨((start.setRunState .haltBudget).setEvq [1#8, 2#8, 3#8, 4#8]).setEnv [[.enqueue 5#8]], [5#8], rfl, rfl, rfl⟩

theorem witness_DecodeOfEncodeIsIdentity :
    (Instr.loadDisp .r7 .r7 0xFF80#16).wellFormed = true ∧ (Instr.swi 0x00FF#16).wellFormed = true ∧
    (Instr.scv .r7 .r7 0x800F#16).wellFormed = true ∧ (Instr.movImm .r7 0xFFFF#16).wellFormed = true := by decide

/-- A form of one word and a form of two, one that reads a register B and two that do not. -/
theorem witness_EncodeOfDecodeIsIdentity :
    decodeWords 0xA010#16 0xFFFF#16 = .ok .eret ∧ decodeWords 0x32C2#16 0xFF80#16 = .ok (.storeDisp .r1 .r3 0xFF80#16) ∧
    decodeWords 0x41F8#16 0#16 = .ok (.cmpReg .r7) ∧
    (Instr.cmpReg .r7).implicitB = some .r7 := by decide

/-- R131: the eight words that name R3 and R1 and a third register in bits 5..3 are eight operations, and ADD is the one with R0. -/
theorem test_no_three_register_add :
    decodeWords 0x4640#16 0#16 = .ok (.addReg .r3 .r1) ∧ decodeWords 0x4648#16 0#16 = .ok (.subReg .r3 .r1) ∧
    decodeWords 0x4650#16 0#16 = .ok (.andReg .r3 .r1) ∧ decodeWords 0x4658#16 0#16 = .ok (.orReg .r3 .r1) ∧
    decodeWords 0x4660#16 0#16 = .ok (.xorReg .r3 .r1) ∧ decodeWords 0x4668#16 0#16 = .ok (.shlReg .r3 .r1) ∧
    decodeWords 0x4670#16 0#16 = .ok (.shrReg .r3 .r1) ∧ decodeWords 0x4678#16 0#16 = .error .illegalPrimary := by decide

/-- A word for each cause, a word with none, and words of a row and of none. -/
theorem witness_IllegalPrimaryWordsAreThoseOfNoRow :
    OpUnassigned 0xB000#16 ∧ OpUnassigned 0x0028#16 ∧ OpUnassigned 0x5038#16 ∧ OpUnassigned 0x7010#16 ∧ OpUnassigned 0xA018#16 ∧
    AmNotAdmitted 0x1006#16 ∧ AmNotAdmitted 0x0020#16 ∧ RegisterFieldUnused 0x0200#16 ∧ RegisterFieldUnused 0x1044#16 ∧
    SubFieldUnused 0x1008#16 :=
  ⟨by decide, by decide, by decide, by decide, by decide, by decide, by decide, by decide, by decide, by decide⟩

theorem witness_IllegalPrimaryWordsAreThoseOfNoRow_noCause :
    ¬ OpUnassigned 0x4E00#16 ∧ ¬ AmNotAdmitted 0x4E00#16 ∧ ¬ RegisterFieldUnused 0x4E00#16 ∧ ¬ SubFieldUnused 0x4E00#16 ∧
    (∃ r ∈ opcodeRows, r.covers 0x4E00#16 = true) ∧ ∀ r ∈ opcodeRows, r.covers 0xB000#16 = false :=
  ⟨by decide, by decide, by decide, by decide, by decide, by decide⟩

/-- Each clause of R66 at the ends of its regions. -/
theorem witness_SampleWordsDecode :
    (region 0xE000#16 = .mmio ∧ region 0xF0FF#16 = .diag ∧ region 0xF100#16 = .reserved ∧ region 0xFFFF#16 = .reserved) ∧
    ((0x0000#16).toNat % 2 = 0 ∧ region 0x0000#16 = .rom) ∧ ((0xDFFE#16).toNat % 2 = 0 ∧ region 0xDFFE#16 = .ram) := by decide

/-- The last legal place of a two-word instruction. -/
theorem witness_StepRunsTheDecodedInstruction :
    ∃ (s : State) (i : Instr) (rest : List Byte), AtInstruction s ∧ FetchLegal s.pc ∧ i.extWords = 1 ∧ FetchLegal (s.pc + 2#16) ∧
      decodeBytes [s.mem.read s.pc.toNat, s.mem.read (s.pc.toNat + 1), s.mem.read (s.pc.toNat + 2), s.mem.read (s.pc.toNat + 3)]
        = .ok (i, rest) :=
  ⟨put 0xDFFC#16 0x4444#16 (put 0xDFFE#16 0x0002#16 (start.setPc 0xDFFC#16)), .addImm .r2 .r1 0x0002#16, [],
    ⟨rfl, rfl, rfl, Or.inl (by decide)⟩, by decide, rfl, by decide, by decide⟩

/-- A one-word instruction at the last word of RAM, with the queue not empty and events disabled. -/
theorem witness_StepRunsTheDecodedInstruction_oneWord :
    ∃ (s : State) (rest : List Byte), AtInstruction s ∧ s.evq ≠ [] ∧ FetchLegal s.pc ∧ Instr.extWords .eret ≠ 1 ∧
      decodeBytes [s.mem.read s.pc.toNat, s.mem.read (s.pc.toNat + 1), s.mem.read (s.pc.toNat + 2), s.mem.read (s.pc.toNat + 3)]
        = .ok (.eret, rest) :=
  ⟨put 0xDFFE#16 0xA010#16 ((start.setPc 0xDFFE#16).setEvq [7#8]), [0x00#8, 0x00#8], ⟨rfl, rfl, rfl, Or.inl (by decide)⟩,
    by decide, by decide, by decide, by decide⟩

theorem witness_FetchAndDecodeFaults_fetch :
    AtInstruction (start.setPc 0xE000#16) ∧ ¬ FetchLegal (start.setPc 0xE000#16).pc ∧ ¬ FetchLegal 0x4001#16 ∧ FetchLegal 0xDFFE#16 :=
  ⟨⟨rfl, rfl, rfl, Or.inl (by decide)⟩, by decide⟩

theorem witness_FetchAndDecodeFaults_illegal :
    let s := put 0xDFFE#16 0xB000#16 (start.setPc 0xDFFE#16)
    AtInstruction s ∧ FetchLegal s.pc ∧
      ∀ r ∈ opcodeRows, r.covers (s.mem.read s.pc.toNat ++ s.mem.read (s.pc.toNat + 1)) = false :=
  ⟨⟨rfl, rfl, rfl, Or.inl (by decide)⟩, by decide⟩

theorem witness_FetchAndDecodeFaults_extensionFetch :
    let s := put 0xDFFE#16 0x4444#16 (start.setPc 0xDFFE#16)
    AtInstruction s ∧ FetchLegal s.pc ∧
      decodeForm (s.mem.read s.pc.toNat ++ s.mem.read (s.pc.toNat + 1)) 0#16 = some (.addImm .r2 .r1 0#16) ∧
      Instr.extWords (.addImm .r2 .r1 0#16) = 1 ∧ ¬ FetchLegal (s.pc + 2#16) :=
  ⟨⟨rfl, rfl, rfl, Or.inl (by decide)⟩, by decide⟩

theorem witness_FetchAndDecodeFaults_extension :
    let s := put 0xDFFC#16 0x22C2#16 (put 0xDFFE#16 0x0080#16 (start.setPc 0xDFFC#16))
    AtInstruction s ∧ FetchLegal s.pc ∧
      decodeForm (s.mem.read s.pc.toNat ++ s.mem.read (s.pc.toNat + 1)) 0#16 = some (.loadDisp .r1 .r3 0#16) ∧
      Instr.extWords (.loadDisp .r1 .r3 0#16) = 1 ∧ FetchLegal (s.pc + 2#16) ∧
      ∀ i, decodeWords (s.mem.read s.pc.toNat ++ s.mem.read (s.pc.toNat + 1))
        (s.mem.read (s.pc.toNat + 2) ++ s.mem.read (s.pc.toNat + 3)) ≠ .ok i := by
  refine ⟨⟨rfl, rfl, rfl, Or.inl (by decide)⟩, by decide, by decide, by decide, by decide, fun i h => ?_⟩
  have e : decodeWords 0x22C2#16 0x0080#16 = .error (.illegalExtension 2) := by decide
  cases e.symm.trans h

/-- Also for LoadReadsTheWord and StoreWritesTheWord. -/
theorem witness_EffectiveAddressesWrap :
    DispLegal 0x0000#16 ∧ DispLegal 0x007F#16 ∧ ¬ DispLegal 0x0080#16 ∧ ¬ DispLegal 0xFF7F#16 ∧ DispLegal 0xFF80#16 ∧ DispLegal 0xFFFF#16 := by
  decide

/-- For TRAP and SWI: the two kinds of stack, and the boundaries of PushesLegal; SP = 0x4004 fails at the third push alone, and SP = 0xF002
at the first alone. Also for RaisingAFault and EventIsDispatched. -/
theorem witness_TrapTakesTheTrapDispatch :
    PushesLegal 0xE000#16 ∧ PushesLegal 0x4006#16 ∧ ¬ PushesLegal 0x4004#16 ∧ WriteLegal (0x4004#16 - 4#16) ∧ PushesLegal 0xF000#16 := by
  decide

theorem witness_TrapTakesTheTrapDispatch_fault :
    ¬ PushesLegal 0xF002#16 ∧ ¬ PushesLegal 0x0000#16 ∧ ¬ PushesLegal 0xDFFF#16 ∧ pushFault 0x4004#16 = .access ∧
    pushFault 0xDFFF#16 = .unaligned ∧ pushFault 0xE003#16 = .mmio := by decide

theorem witness_SwiTakesTheTrapDispatch :
    SwiLegal 0x0000#16 ∧ SwiLegal 0x00FF#16 ∧ ¬ SwiLegal 0x0100#16 ∧ ¬ SwiLegal 0xFFFF#16 ∧ PushesLegal start.sp ∧
    ¬ PushesLegal (start.setSp 0x4004#16).sp := by decide

/-- AM 001, AM 101, a SUB field, and an RA field in the immediate form. -/
theorem witness_MovCopiesAndSetsFlags :
    ((opField 0x1001#16).toNat = 1 ∧ (amField 0x1001#16).toNat ≠ 0 ∧ (amField 0x1001#16).toNat ≠ 4) ∧
    ((opField 0x1005#16).toNat = 1 ∧ (amField 0x1005#16).toNat ≠ 0 ∧ (amField 0x1005#16).toNat ≠ 4) ∧
    ((opField 0x1008#16).toNat = 1 ∧ (subField 0x1008#16).toNat ≠ 0) ∧
    ((opField 0x1044#16).toNat = 1 ∧ (amField 0x1044#16).toNat = 4 ∧ raField 0x1044#16 ≠ 0#3) := by decide

theorem witness_LoadReadsTheWord :
    ReadLegal 0x0000#16 ∧ ReadLegal 0x3FFE#16 ∧ ReadLegal 0xDFFE#16 ∧ ReadLegal 0xE000#16 ∧ ReadLegal 0xEFFE#16 ∧ ReadLegal 0xF000#16 ∧
    ReadLegal 0xF0FE#16 ∧ ¬ ReadLegal 0xF100#16 ∧ ¬ ReadLegal 0xFFFE#16 ∧ ¬ ReadLegal 0x4001#16 ∧ accessFault 0xF100#16 = .access ∧
    accessFault 0xF101#16 = .unaligned ∧ accessFault 0xE001#16 = .mmio ∧ accessFault 0xEFFF#16 = .mmio ∧
    accessFault 0xF001#16 = .unaligned := by decide

theorem witness_StoreWritesTheWord :
    WriteLegal 0x4000#16 ∧ ¬ WriteLegal 0x3FFE#16 ∧ WriteLegal 0xDFFE#16 ∧ WriteLegal 0xE000#16 ∧ WriteLegal 0xEFFE#16 ∧
    ¬ WriteLegal 0xF000#16 ∧ ¬ WriteLegal 0xFFFE#16 ∧ ¬ WriteLegal 0x4001#16 := by decide

/-- The first and the last word of RAM, with SP just above the first. -/
theorem witness_MemoryReturnsTheLastWrite :
    (0x4000#16).toNat % 2 = 0 ∧ (0xDFFE#16).toNat % 2 = 0 ∧ region 0x4000#16 = .ram ∧ region 0xDFFE#16 = .ram ∧ 0x4000#16 ≠ 0xDFFE#16 ∧
    (start.setSp 0x4002#16).sp = 0x4000#16 + 2#16 := by decide

theorem witness_ScvShiftsWithSaturation :
    (ScvLegal 0x0000#16 ∧ (0x0000#16).toNat < 0x8000) ∧ (ScvLegal 0x000F#16 ∧ (0x000F#16).toNat < 0x8000) ∧
    (ScvLegal 0x8000#16 ∧ 0x8000 ≤ (0x8000#16).toNat) ∧ (ScvLegal 0x800F#16 ∧ 0x8000 ≤ (0x800F#16).toNat) ∧
    ¬ ScvLegal 0x0010#16 ∧ ¬ ScvLegal 0x4000#16 ∧ ¬ ScvLegal 0xFFFF#16 := by decide

/-- Below the budget and at it, from one cycle below. -/
theorem witness_Charged :
    (stepped (nopAt 638#16)).tick.toNat < 640 ∧ 640 ≤ (stepped (nopAt 639#16)).tick.toNat := by decide

theorem witness_CallPushesTheReturnAddress :
    WriteLegal (0x4002#16 - 2#16) ∧ WriteLegal (0xF000#16 - 2#16) ∧ ¬ WriteLegal (0x4000#16 - 2#16) ∧ ¬ WriteLegal (0xF002#16 - 2#16) ∧
    ¬ WriteLegal (0x0000#16 - 2#16) ∧ ¬ WriteLegal (0x4003#16 - 2#16) := by decide

theorem witness_RetPopsItsTarget :
    ReadLegal 0x0000#16 ∧ ReadLegal 0xF0FE#16 ∧ ¬ ReadLegal 0xF100#16 ∧ ¬ ReadLegal 0xDFFF#16 := by decide

/-- PUSH's two clauses at SP = 0x4002 and 0x4000, POP's at 0xF0FE and 0xF100. -/
theorem witness_PushAndPopMoveOneWord :
    WriteLegal ((start.setSp 0x4002#16).sp - 2#16) ∧ ¬ WriteLegal ((start.setSp 0x4000#16).sp - 2#16) ∧
    ReadLegal (start.setSp 0xF0FE#16).sp ∧ ¬ ReadLegal (start.setSp 0xF100#16).sp := by decide

/-- The boundaries of the region and an odd address inside it. -/
theorem witness_InReadsTheDevice :
    MmioLegal 0xE000#16 ∧ MmioLegal 0xEFFE#16 ∧ ¬ MmioLegal 0xDFFE#16 ∧ ¬ MmioLegal 0xF000#16 ∧ ¬ MmioLegal 0xE001#16 ∧
    mmioAccessFault 0xDFFE#16 = .access ∧ mmioAccessFault 0xDFFF#16 = .mmio ∧ mmioAccessFault 0xE001#16 = .mmio := by decide

theorem witness_OutWritesTheDeviceOrLatchesInhibit : MmioLegal 0xE000#16 ∧ MmioLegal 0xEFFE#16 ∧ ¬ MmioLegal 0xF000#16 := by decide

theorem witness_BsetAndBclrModifyOneBit : MmioLegal 0xE000#16 ∧ MmioLegal 0xEFFE#16 ∧ ¬ MmioLegal 0xDFFE#16 := by decide

theorem witness_BtestSetsZeroFlagAlone : MmioLegal 0xE000#16 ∧ MmioLegal 0xEFFE#16 ∧ ¬ MmioLegal 0xEFFF#16 := by decide

theorem witness_EwaitStallsOnlyOnAnEmptyQueue : start.evq = [] ∧ (start.setEvq [7#8]).evq ≠ [] := by decide

theorem witness_EgetTakesTheOldestEvent : start.evq = [] ∧ (start.setEvq [7#8, 9#8]).evq ≠ [] := by decide

/-- A frame in RAM; one whose three words are in RAM, RAM and MMIO; and the three reads that fail, at the end of the legal addresses. -/
theorem witness_EretPopsTheFrame :
    (eretEnabling.hctx = [.trap] ∧ ReadLegal eretEnabling.sp ∧ ReadLegal (eretEnabling.sp + 2#16) ∧ ReadLegal (eretEnabling.sp + 4#16)) ∧
    (ReadLegal 0xDFFC#16 ∧ ReadLegal (0xDFFC#16 + 2#16) ∧ ReadLegal (0xDFFC#16 + 4#16)) ∧ start.hctx = [] ∧
    ((framed 0#16 0#16 0#16).hctx ≠ [] ∧ ¬ ReadLegal 0xF100#16) ∧ (ReadLegal 0xF0FE#16 ∧ ¬ ReadLegal (0xF0FE#16 + 2#16)) ∧
    (ReadLegal 0xF0FC#16 ∧ ReadLegal (0xF0FC#16 + 2#16) ∧ ¬ ReadLegal (0xF0FC#16 + 4#16)) := by decide

/-- The budget reached exactly, and one cycle below it. -/
theorem witness_BudgetFaultIsNotDispatched :
    640 ≤ (charge 1 (nopAt 639#16)).tick.toNat ∧ ¬ 640 ≤ (charge 1 (nopAt 638#16)).tick.toNat := by decide

/-- R46, R262 step 4: a NOP is counted once, and the counter stays at 0xFFFF. -/
theorem test_instruction_counter :
    (stepped (nopAt 0#16)).diag.instrCount = 1#16 ∧
    (stepped ((nopAt 0#16).setDiag { Diag.blank with instrCount := 0xFFFF#16 })).diag.instrCount = 0xFFFF#16 := by decide

/-- R290: the NOP that reaches 640 is counted and recorded at the PC after it. -/
theorem test_budget_record :
    let d := (stepped (nopAt 639#16)).diag
    d.lastFaultPc = 0x4002#16 ∧ d.lastFaultTick = 640#16 ∧ d.faultCount.budget = 1#16 ∧ d.instrCount = 1#16 := by decide

/-- Both ends of the range of SP. -/
theorem witness_EretUndoesTheTrapDispatch :
    (start.setSp 0x4006#16).reservedFlagsZero ∧ (start.setSp 0x4006#16).sp.toNat % 2 = 0 ∧ 0x4006 ≤ (start.setSp 0x4006#16).sp.toNat ∧
    start.reservedFlagsZero ∧ start.sp.toNat % 2 = 0 ∧ start.sp.toNat ≤ 0xE000 := by
  unfold State.reservedFlagsZero
  decide

/-- A fault that is dispatched, and the two double faults; the record's clauses have no hypothesis but `q ≠ k`, also for FK_BUDGET. -/
theorem witness_RaisingAFaultRecordsAndDispatches :
    FaultKind.illegal ≠ .budget ∧ FaultKind.fetch ≠ .budget ∧ DispatchClass.fault ∉ start.hctx ∧ PushesLegal start.sp ∧
    DispatchClass.fault ∈ (start.setHctx [.event, .fault]).hctx ∧ ¬ PushesLegal (start.setSp 0x4004#16).sp := by decide

theorem witness_EventIsDispatchedAtTheBoundary :
    let s := (start.setFlags 0x0010#16).setEvq [7#8]
    s.pendingInputs = [] ∧ s.runState = .run ∧ s.qovf = false ∧ s.flag .i = true ∧ s.evq = 7#8 :: [] ∧ PushesLegal s.sp ∧
      ¬ PushesLegal (s.setSp 0x4004#16).sp := by decide

theorem witness_QueueOverflowIsTakenFirst :
    (start.setEvq [1#8, 2#8, 3#8]).evq.length < 4 ∧ 4 ≤ (start.setEvq [1#8, 2#8, 3#8, 4#8]).evq.length ∧
    (start.setQovf true).pendingInputs = [] ∧ (start.setQovf true).runState = .run ∧ (start.setQovf true).qovf = true := by decide

theorem witness_TickBoundaryByRunState :
    start.runState = .run ∧ (start.setRunState .haltTick).runState = .haltTick ∧ (start.setRunState .haltBudget).runState = .haltBudget ∧
    (start.setRunState .haltPerm).runState = .haltPerm ∧ (start.setEnv [[.tick]]).pendingInputs = [.tick] := by decide

/-- A tick pending wakes the core from HALT_TICK, and the NOP at PC runs in the same step (R292, R262); T9: from HALT_BUDGET it goes to the
FAULT vector. -/
theorem test_step_with_tick_pending :
    ptf (stepped (((nopAt 17#16).setRunState .haltTick).setEnv [[.tick]])) = (0x4002#16, 1#16, 0#16) ∧
    ptf (stepped (((nopAt 640#16).setRunState .haltBudget).setEnv [[.tick]])) = (0x0402#16, 1#16, 0#16) := by decide

theorem witness_ResetInputRestoresTheResetState :
    ((start.setRunState .haltPerm).setEnv [[.reset]]).pendingInputs = [.reset] := by decide

/-- T9: the reset input ends HALT_PERM, with the first fetch at 0x0000. -/
theorem test_reset_input :
    (resetInput (start.setRunState .haltPerm)).runState = .run ∧ (resetInput (start.setRunState .haltPerm)).pc = 0x0000#16 ∧
    (resetInput (start.setRunState .haltPerm)).sp = 0xE000#16 := ⟨rfl, rfl, rfl⟩

/-- Events around the reset and the tick, which are applied after them: both, the tick alone, none. -/
theorem witness_InputsAreAppliedInOrder :
    let xs : List Input := [.enqueue 5#8, .tick, .enqueue 6#8]
    let ys : List Input := [.enqueue 5#8, .tick, .reset, .enqueue 6#8]
    let zs : List Input := [.enqueue 5#8, .enqueue 6#8]
    (ys.filter Input.isEnqueue = [5#8, 6#8].map Input.enqueue ∧ ys.filter Input.isReset = [.reset] ∧ ys.filter Input.isTick = [.tick]) ∧
    (xs.filter Input.isEnqueue = [5#8, 6#8].map Input.enqueue ∧ xs.filter Input.isReset = [] ∧ xs.filter Input.isTick = [.tick]) ∧
    (zs.filter Input.isEnqueue = [5#8, 6#8].map Input.enqueue ∧ zs.filter Input.isReset = [] ∧ zs.filter Input.isTick = []) := by decide

/-- A reset and no tick, with an event and without one. -/
theorem witness_InputsAreAppliedInOrder_resetAlone :
    let us : List Input := [.enqueue 5#8, .reset]
    let vs : List Input := [.reset]
    (us.filter Input.isEnqueue = [5#8].map Input.enqueue ∧ us.filter Input.isReset = [.reset] ∧ us.filter Input.isTick = []) ∧
    (vs.filter Input.isEnqueue = ([] : List Byte).map Input.enqueue ∧ vs.filter Input.isReset = [.reset] ∧ vs.filter Input.isTick = []) := by
  decide

end Sys2Proof.Tests
end

section
/-! The memory map and the legality of fetches (20_memory.md R61, R66), and words written out from the encodings. -/

namespace Sys2Proof.Machine

/-! ## The region map (R61) -/

/-- Settles O21: the model's bounds are the first addresses past each range, the table's are the last ones in it. -/
theorem regionMapIsTheTable : Obligations.RegionMapIsTheTable := by
  intro a
  have hlt : a.toNat < 0x10000 := a.isLt
  rw [region_rom_iff, region_ram_iff, region_mmio_iff, region_diag_iff, region_reserved_iff]
  omega

/-! ## Where a fetch is legal (R66) -/

theorem not_fetchLegal_of_region {a : Word} (h : region a = .mmio ∨ region a = .diag ∨ region a = .reserved) :
    ¬ FetchLegal a := by
  rintro ⟨-, hlt⟩
  rw [region_mmio_iff, region_diag_iff, region_reserved_iff] at h
  omega

theorem fetchLegal_of_region {a : Word} (heven : a.toNat % 2 = 0) (h : region a = .rom ∨ region a = .ram) :
    FetchLegal a :=
  ⟨heven, region_lt_rom.1 h⟩

/-! ## Decoding a word through its form (R110 steps 2 and 4) -/

theorem decodeWords_of_decodeForm {w ext : Word} {i : Instr} (hform : decodeForm w ext = some i)
    (hwf : i.wellFormed = true) : decodeWords w ext = .ok i := by
  simp [decodeWords, hform, hwf]

/-- Settles O18: a fetch is decided by `FetchLegal`, which the region decides for an even address; each sample word is of
the form the spec gives, and that form accepts its extension word. -/
theorem sampleWordsDecode : Obligations.SampleWordsDecode := by
  refine ⟨fun a s => ⟨fun hregion => ?_, fun heven hregion => ?_⟩, ?_, ?_, ?_, ?_, ?_, ?_, ?_, ?_, ?_, ?_⟩
  · exact ⟨.fetch, fetchWord_illegal (not_fetchLegal_of_region hregion)⟩
  · exact ⟨_, fetchWord_legal (fetchLegal_of_region heven hregion)⟩
  all_goals exact decodeWords_of_decodeForm (by decide) (by decide)

end Sys2Proof.Machine
end

section
/-! What every step keeps (10_state.md R21 to R46, 20_memory.md R62): each invariant is a property of a few fields, and only
the moves that write one of these fields have to be looked at. `StepClosed.step` carries it to every step. -/

namespace Sys2Proof.Machine

/-! ## Memory: the canonical form, and the bytes of ROM -/

/-- A property of memory that a RAM write and a reset keep is kept by every step: nothing else writes memory. -/
theorem StepClosed.of_mem {Q : Memory → Prop} (write : ∀ m a v, region a = .ram → Q m → Q (m.writeWord a v))
    (reset : ∀ m cells, Q m → Q (m.romPart.loadRam cells)) : StepClosed (fun s => Q s.mem) where
  setReg _ _ _ h := h
  setPc _ _ h := h
  setCause _ _ h := h
  setHctx _ _ h := h
  aluFlags _ _ _ h := h
  enterFlags _ _ h := h
  moveSp _ _ _ h := h
  tailEvq _ _ _ _ h := h
  busRead _ _ h := h
  busWrite _ _ _ h := h
  writeRam s a v _ hr h := write s.mem a v hr h
  recordFault _ _ h := h
  countInstr _ h := h
  charge s n h := by rwa [charge_mem]
  haltPerm _ h := h
  haltTick _ _ h := h
  popFlags _ _ h := h
  clearQovf _ h := h
  setEnv _ _ h := h
  enqueue id s h := by unfold Machine.enqueue; split <;> exact h
  tick s h := by unfold tickBoundary; split <;> exact h
  reset s h := reset s.mem _ h

/-- Settles O3. -/
theorem stepKeepsMemoryCanonical : Obligations.StepKeepsMemoryCanonical := fun _ _ h e =>
  (StepClosed.of_mem (Q := fun m => m.wf = true) (fun _ a v _ h => Memory.writeWord_wf a v h)
    (fun _ cells h => Memory.loadRam_wf cells (Memory.romPart_wf h))).step h e

/-- A RAM write does not reach ROM, and a reset keeps it. -/
theorem romBytes_stepClosed (m₀ : Memory) :
    StepClosed (fun s => ∀ x, x < 0x4000 → s.mem.read x = m₀.read x) :=
  StepClosed.of_mem (Q := fun m => ∀ x, x < 0x4000 → m.read x = m₀.read x)
    (fun m a v hr h x hx => by
      rw [region_ram_iff] at hr
      rw [Memory.read_writeWord_other _ _ _ _ (by omega) (by omega), h x hx])
    (fun m cells h x hx => by rw [Memory.read_loadRam_rom _ _ _ hx, Memory.read_romPart _ _ hx, h x hx])

/-! ## CAP -/

theorem capAuthority_stepClosed : StepClosed (fun s => s.cap = 0x000F#16) where
  setReg _ _ _ h := h
  setPc _ _ h := h
  setCause _ _ h := h
  setHctx _ _ h := h
  aluFlags _ _ _ h := h
  enterFlags _ _ h := h
  moveSp _ _ _ h := h
  tailEvq _ _ _ _ h := h
  busRead _ _ h := h
  busWrite _ _ _ h := h
  writeRam _ _ _ _ _ h := h
  recordFault _ _ h := h
  countInstr _ h := h
  charge s n h := by rwa [charge_cap]
  haltPerm _ h := h
  haltTick _ _ h := h
  popFlags _ _ h := h
  clearQovf _ h := h
  setEnv _ _ h := h
  enqueue id s h := by unfold Machine.enqueue; split <;> exact h
  tick s h := by unfold tickBoundary; split <;> exact h
  reset _ _ := rfl

/-- Settles O8. -/
theorem stepNeverChangesRomOrCap : Obligations.StepNeverChangesRomOrCap := fun s _ e =>
  ⟨(romBytes_stepClosed s.mem).step (fun _ _ => rfl) e, fun h => capAuthority_stepClosed.step h e⟩

/-! ## SP -/

/-- An even amount added to an even word leaves it even: the carry out of bit 15 is a multiple of 2. -/
theorem add_even {a d : Word} (ha : a.toNat % 2 = 0) (hd : isOdd d = false) : (a + d).toNat % 2 = 0 := by
  rw [isOdd_iff, decide_eq_false_iff_not] at hd
  rw [BitVec.toNat_add]
  omega

theorem stackAligned_stepClosed : StepClosed State.stackAligned where
  setReg _ _ _ h := h
  setPc _ _ h := h
  setCause _ _ h := h
  setHctx _ _ h := h
  aluFlags _ _ _ h := h
  enterFlags _ _ h := h
  moveSp _ _ hd h := add_even h hd
  tailEvq _ _ _ _ h := h
  busRead _ _ h := h
  busWrite _ _ _ h := h
  writeRam _ _ _ _ _ h := h
  recordFault _ _ h := h
  countInstr _ h := h
  charge s n h := by rwa [State.stackAligned, charge_sp]
  haltPerm _ h := h
  haltTick _ _ h := h
  popFlags _ _ h := h
  clearQovf _ h := h
  setEnv _ _ h := h
  enqueue id s h := by unfold Machine.enqueue; split <;> exact h
  tick s h := by unfold tickBoundary; split <;> exact h
  reset _ _ := (by decide : (0xE000#16).toNat % 2 = 0)

/-- Settles O5: every move of SP is by an even amount. -/
theorem stepKeepsStackAligned : Obligations.StepKeepsStackAligned := fun _ _ h e =>
  stackAligned_stepClosed.step h e

/-! ## FLAGS -/

/-- A property of FLAGS that depends on bits 15..4 alone and survives the entry of a dispatch is kept by everything but
ERET. -/
theorem Closed.of_flags {Q : Word → Prop} (alu : ∀ v w, (∀ j, 4 ≤ j → j < 16 → v.getLsbD j = w.getLsbD j) → Q w → Q v)
    (entry : ∀ w cls, Q w → Q (entryFlags cls w)) : Closed (fun s => Q s.flags) where
  setReg _ _ _ h := h
  setPc _ _ h := h
  setCause _ _ h := h
  setHctx _ _ h := h
  aluFlags s v hv h := alu v s.flags hv h
  enterFlags s cls h := entry s.flags cls h
  moveSp _ _ _ h := h
  tailEvq _ _ _ _ h := h
  busRead _ _ h := h
  busWrite _ _ _ h := h
  writeRam _ _ _ _ _ h := h
  recordFault _ _ h := h
  countInstr _ h := h
  charge s n h := by rwa [charge_flags]
  haltPerm _ h := h
  haltTick _ _ h := h

theorem enqueue_flags (id : Byte) (s : State) : (enqueue id s).flags = s.flags := by
  unfold enqueue; split <;> rfl

theorem tickBoundary_flags (s : State) : (tickBoundary s).flags = s.flags := by
  unfold tickBoundary; split <;> rfl

/-- The entry of a dispatch writes bits 4 and 5, and ERET drops bits 15..6 of the word it pops (R252). -/
theorem reservedFlagsZero_stepClosed : StepClosed State.reservedFlagsZero where
  toClosed := Closed.of_flags (Q := fun w => ∀ j, 6 ≤ j → j < 16 → w.getLsbD j = false)
    (fun _ _ hv h j h6 h16 => (hv j (by omega) h16).trans (h j h6 h16))
    (fun w cls h j h6 h16 => by
      rw [getLsbD_entryFlags cls w j h16, if_neg (by omega), if_neg (by omega), h j h6 h16])
  popFlags _ w _ j h6 h16 := (getLsbD_poppedFlags w j h16).trans (by simp; omega)
  clearQovf _ h := h
  setEnv _ _ h := h
  enqueue id s h := by rwa [State.reservedFlagsZero, enqueue_flags]
  tick s h := by rwa [State.reservedFlagsZero, tickBoundary_flags]
  reset _ _ j _ _ := BitVec.getLsbD_zero

/-- Settles O4. -/
theorem stepKeepsReservedFlagsZero : Obligations.StepKeepsReservedFlagsZero := fun _ _ h e =>
  reservedFlagsZero_stepClosed.step h e

/-- FLAGS.I is bit 4, which arithmetic keeps and the entry of a dispatch clears. -/
theorem eventsDisabled_closed : Closed (fun s => s.flag .i = false) :=
  Closed.of_flags (Q := fun w => getFlag .i w = false)
    (fun _ _ hv h => (hv 4 (by decide) (by decide)).trans h)
    (fun w cls _ => getLsbD_entryFlags cls w 4 (by decide))

/-- No input makes FLAGS.I become 1. -/
theorem acceptInputs_eventsDisabled {s : State} (h : s.flag .i = false) : (acceptInputs s).flag .i = false := by
  refine applyInputs_keeps (P := fun u => u.flag .i = false) (fun u x _ hu => ?_) (s := s.setEnv s.env.tail) h
  cases x with
  | reset => exact (by decide : getFlag .i 0x0000#16 = false)
  | tick => exact (congrArg (getFlag .i) (tickBoundary_flags u)).trans hu
  | enqueue id => exact (congrArg (getFlag .i) (enqueue_flags id u)).trans hu

/-- Settles O9: whatever a step does from disabled events other than running an ERET keeps them disabled. -/
theorem onlyEretEnablesEvents : Obligations.OnlyEretEnablesEvents := by
  intro s t e hs ht
  have hP := eventsDisabled_closed
  have ha := acceptInputs_eventsDisabled hs
  have stays : ∀ {u}, Host.Outcome.next (φ := Fault) (ρ := Refusal) u = .next t → ¬ u.flag .i = false := by
    rintro u h hu
    cases h
    simp [hu] at ht
  unfold step at e
  rcases coreStep_cases (acceptInputs s) with ⟨-, h⟩ | ⟨-, -, h⟩ | ⟨-, -, id, rest, -, hq, h⟩ |
    ⟨hrun, -, -, ⟨x, -, h⟩ | ⟨i, hi, h⟩⟩ <;> rw [h] at e
  · exact absurd ha (stays e)
  · exact absurd (hP.raiseFault _ _ (s := (acceptInputs s).setQovf false) ha) (stays e)
  · exact absurd (hP.dispatchEvent _ _ hq ha) (stays e)
  · exact absurd (hP.raiseFault _ _ ha) (stays e)
  · refine ⟨hrun, ?_⟩
    by_cases hne : i = .eret
    · rw [hi, hne]
    · simp [hP.exec i (fun hi => absurd hi hne) ha e] at ht

/-! ## The event queue -/

theorem queueBounded_stepClosed : StepClosed State.queueBounded where
  setReg _ _ _ h := h
  setPc _ _ h := h
  setCause _ _ h := h
  setHctx _ _ h := h
  aluFlags _ _ _ h := h
  enterFlags _ _ h := h
  moveSp _ _ _ h := h
  tailEvq s id rest hq h := by
    have hlen := h.1
    rw [hq, List.length_cons] at hlen
    exact ⟨by rw [State.setEvq_evq]; omega, rfl⟩
  busRead _ _ h := h
  busWrite _ _ _ h := h
  writeRam _ _ _ _ _ h := h
  recordFault _ _ h := h
  countInstr _ h := h
  charge s n h := by rwa [State.queueBounded, charge_evq, charge_evp]
  haltPerm _ h := h
  haltTick _ _ h := h
  popFlags _ _ h := h
  clearQovf _ h := h
  setEnv _ _ h := h
  enqueue id s h := by
    unfold Machine.enqueue
    split
    · next hroom => exact ⟨by simpa [evqDepth] using hroom, rfl⟩
    · exact h
  tick s h := by unfold tickBoundary; split <;> exact h
  reset _ _ := ⟨Nat.zero_le _, rfl⟩

/-- Settles O6. -/
theorem stepKeepsQueueBounded : Obligations.StepKeepsQueueBounded := fun _ _ h e =>
  queueBounded_stepClosed.step h e

/-! ## TICK -/

/-- The budget check leaves RUN and HALT_TICK to a core below the budget only. -/
theorem charge_tickBelowBudget {s : State} (n : Nat) : (charge n s).tickBelowBudget := by
  intro hrun
  rw [charge_runState] at hrun
  rw [charge_tick]
  by_contra hover
  rw [if_pos (show budget ≤ _ by unfold budget; omega)] at hrun
  cases hb : s.brecov <;> simp [hb, budgetHalt] at hrun

theorem tickBelowBudget_stepClosed : StepClosed State.tickBelowBudget where
  setReg _ _ _ h := h
  setPc _ _ h := h
  setCause _ _ h := h
  setHctx _ _ h := h
  aluFlags _ _ _ h := h
  enterFlags _ _ h := h
  moveSp _ _ _ h := h
  tailEvq _ _ _ _ h := h
  busRead _ _ h := h
  busWrite _ _ _ h := h
  writeRam _ _ _ _ _ h := h
  recordFault _ _ h := h
  countInstr _ h := h
  charge _ n _ := charge_tickBelowBudget n
  haltPerm _ _ := by rintro (h | h) <;> cases h
  haltTick _ hlt _ := fun _ => hlt
  popFlags _ _ h := h
  clearQovf _ h := h
  setEnv _ _ h := h
  enqueue id s h := by unfold Machine.enqueue; split <;> exact h
  tick s _ := by unfold tickBoundary; split <;> exact fun _ => (by decide : (0#16).toNat < 640)
  reset _ _ := fun _ => (by decide : (0#16).toNat < 640)

/-- Settles O7. -/
theorem stepKeepsTickBelowBudget : Obligations.StepKeepsTickBelowBudget := fun _ _ h e =>
  tickBelowBudget_stepClosed.step h e

/-! ## The state they hold in after reset (R50, R51) -/

/-- Settles O1. -/
theorem resetGivesTheSpecifiedRegisters : Obligations.ResetGivesTheSpecifiedRegisters :=
  ⟨rfl, rfl, fun q => by cases q <;> rfl, rfl, rfl, rfl, rfl, rfl⟩

/-- Settles O2. -/
theorem resetMeetsTheInvariant : Obligations.ResetMeetsTheInvariant :=
  ⟨{ mem := rfl
     flags := fun _ _ _ => BitVec.getLsbD_zero
     sp := rfl
     queue := ⟨Nat.zero_le _, rfl⟩
     cap := rfl
     tick := fun _ => by decide },
    rfl, rfl, rfl, rfl, rfl, rfl⟩

end Sys2Proof.Machine
end

section
/-! The encoder and the decoder (30_encoding.md R100 to R122): the fields of a packed word are what it was packed from, so
each form's word is decoded to the form, and each word is packed from its own fields, so each form's encoding is its word. -/

namespace Sys2Proof

/-! ## Packing and the fields (R101) -/

theorem Reg.ofBits_bits (r : Reg) : Reg.ofBits r.bits = r := by cases r <;> rfl

theorem Reg.bits_ofBits (b : BitVec 3) : (Reg.ofBits b).bits = b := by revert b; decide

theorem bits_beq_zero (r : Reg) : (r.bits == 0#3) = decide (r = .r0) := by cases r <;> rfl

theorem Reg.r0_bits : Reg.r0.bits = 0#3 := rfl

/-- A packed word as a number: its fields by their weights. -/
theorem packWord_toNat (op : BitVec 4) (rd ra : Reg) (sub am : BitVec 3) :
    (packWord op rd ra sub am).toNat =
      4096 * op.toNat + 512 * rd.bits.toNat + 64 * ra.bits.toNat + 8 * sub.toNat + am.toNat := by
  simp only [packWord, BitVec.toNat_append]
  rw [← Nat.shiftLeft_add_eq_or_of_lt am.isLt, ← Nat.shiftLeft_add_eq_or_of_lt sub.isLt,
    ← Nat.shiftLeft_add_eq_or_of_lt ra.bits.isLt, ← Nat.shiftLeft_add_eq_or_of_lt rd.bits.isLt]
  simp only [Nat.shiftLeft_eq]
  omega

section
variable (op : BitVec 4) (rd ra : Reg) (sub am : BitVec 3)

@[simp] theorem opField_packWord : opField (packWord op rd ra sub am) = op := by
  apply BitVec.eq_of_toNat_eq
  rw [opField, BitVec.extractLsb'_toNat, packWord_toNat, Nat.shiftRight_eq_div_pow]
  omega

@[simp] theorem rdField_packWord : rdField (packWord op rd ra sub am) = rd.bits := by
  apply BitVec.eq_of_toNat_eq
  rw [rdField, BitVec.extractLsb'_toNat, packWord_toNat, Nat.shiftRight_eq_div_pow]
  omega

@[simp] theorem raField_packWord : raField (packWord op rd ra sub am) = ra.bits := by
  apply BitVec.eq_of_toNat_eq
  rw [raField, BitVec.extractLsb'_toNat, packWord_toNat, Nat.shiftRight_eq_div_pow]
  omega

@[simp] theorem subField_packWord : subField (packWord op rd ra sub am) = sub := by
  apply BitVec.eq_of_toNat_eq
  rw [subField, BitVec.extractLsb'_toNat, packWord_toNat, Nat.shiftRight_eq_div_pow]
  omega

@[simp] theorem amField_packWord : amField (packWord op rd ra sub am) = am := by
  apply BitVec.eq_of_toNat_eq
  rw [amField, BitVec.extractLsb'_toNat, packWord_toNat, Nat.shiftRight_eq_div_pow]
  omega

end

/-- A word is packed from its own fields. -/
theorem packWord_fields (w : Word) :
    packWord (opField w) (Reg.ofBits (rdField w)) (Reg.ofBits (raField w)) (subField w) (amField w) = w := by
  apply BitVec.eq_of_toNat_eq
  simp only [packWord_toNat, Reg.bits_ofBits, opField, rdField, raField, subField, amField, BitVec.extractLsb'_toNat,
    Nat.shiftRight_eq_div_pow]
  omega

/-! ## The encoder's words decode to the form (R110, R122) -/

/-- The words `ws` with which an instruction is written: the primary word, and the extension word where the form has one. -/
abbrev WrittenAs (w ext : Word) (ws : List Word) : Prop := ws = [w] ∨ ws = [w, ext]

/-- Every instruction is the form of its own primary word, with its own extension word where it has one. -/
theorem decodeForm_of_encode {i : Instr} {w ext : Word} (h : WrittenAs w ext (encode i)) : decodeForm w ext = some i := by
  rcases h with h | h <;> cases i <;> simp only [encode, List.cons.injEq, and_true, reduceCtorEq, and_false] at h
  all_goals first | subst h | obtain ⟨rfl, rfl⟩ := h
  all_goals
    simp [decodeForm, decodeControl, decodeMov, decodeLoad, decodeStore, decodeAlu, decodeHelper, decodeBranch, decodeStack,
      decodeMmio, decodeAtomic, decodeEvent, onlyIf, Reg.ofBits_bits, Reg.r0_bits]

/-- So is every well-formed instruction decoded from its words. -/
theorem decodeWords_of_encode {i : Instr} {w ext : Word} (h : WrittenAs w ext (encode i)) (hwf : i.wellFormed = true) :
    decodeWords w ext = .ok i :=
  Machine.decodeWords_of_decodeForm (decodeForm_of_encode h) hwf

/-- The words of a form in the terms of its match `base` (R122): `base` is the form's word with RD and RA 000. -/
theorem isWords_of_encode {op : BitVec 4} {sub am : BitVec 3} {rd ra : Reg} {ext : Word} {i : Instr} {base : Nat}
    (h : WrittenAs (packWord op rd ra sub am) ext (encode i)) (hwf : i.wellFormed = true)
    (hbase : base = 4096 * op.toNat + 8 * sub.toNat + am.toNat) : Machine.IsWords base rd ra ext i := by
  have hword : Machine.formWord base rd ra = packWord op rd ra sub am := by
    apply BitVec.eq_of_toNat_eq
    rw [packWord_toNat, Machine.formWord, BitVec.toNat_ofNat, hbase]
    omega
  rw [Machine.IsWords, hword]
  exact decodeWords_of_encode h hwf

/-- The bytes of an instruction as the decoder takes them: two for the primary word, two for the extension word. -/
theorem encode_cases (i : Instr) :
    (i.extWords = 0 ∧ ∃ w, encode i = [w]) ∨ (i.extWords = 1 ∧ ∃ w ext, encode i = [w, ext]) := by
  cases i
  all_goals first | exact Or.inl ⟨rfl, _, rfl⟩ | exact Or.inr ⟨rfl, _, _, rfl⟩

/-- The extension word 0 stands for one not yet fetched: the form is of the same length. -/
theorem decodeForm_zero_of_decodeForm {w ext : Word} {i : Instr} (h : decodeForm w ext = some i) :
    ∃ form, decodeForm w 0#16 = some form ∧ form.extWords = i.extWords ∧ form.baseCost = i.baseCost := by
  have hshape := decodeForm_shape w 0#16 ext
  rw [h] at hshape
  cases hf : decodeForm w 0#16 with
  | none => rw [hf] at hshape; cases hshape
  | some form =>
    rw [hf] at hshape
    simp only [Option.map_some, formShape, Option.some.injEq, Prod.mk.injEq] at hshape
    exact ⟨form, rfl, hshape⟩

/-- Settles O15. -/
theorem decodeOfEncodeIsIdentity : Obligations.DecodeOfEncodeIsIdentity := by
  intro i rest hwf
  rcases encode_cases i with ⟨hlen, w, hw⟩ | ⟨hlen, w, ext, hw⟩
  · have hform : decodeForm w 0#16 = some i := decodeForm_of_encode (.inl hw)
    have hwords : decodeWords w 0#16 = .ok i := decodeWords_of_encode (.inl hw) hwf
    simp [encodeBytes, hw, wordBytes, decodeBytes, Machine.wordOf_halves, hform, hlen, hwords]
  · obtain ⟨form, hform, hflen, -⟩ := decodeForm_zero_of_decodeForm (decodeForm_of_encode (.inr hw))
    have hwords : decodeWords w ext = .ok i := decodeWords_of_encode (.inr hw) hwf
    rw [hlen] at hflen
    simp [encodeBytes, hw, wordBytes, decodeBytes, Machine.wordOf_halves, hform, hflen, hwords]

/-! ## What decodes is written with the words it was decoded from (R120, R121) -/

theorem onlyIf_eq_some {b : Bool} {i j : Instr} : onlyIf b i = some j ↔ b = true ∧ i = j := by
  cases b <;> simp [onlyIf]

/-- The words that a decoded instruction is written with: the primary word with these fields, and the extension word where the
form has one. -/
def wordsFrom (op : BitVec 4) (rd ra : Reg) (sub am : Nat) (ext : Word) (i : Instr) : List Word :=
  if i.extWords = 0 then [packWord op rd ra (BitVec.ofNat 3 sub) (BitVec.ofNat 3 am)]
  else [packWord op rd ra (BitVec.ofNat 3 sub) (BitVec.ofNat 3 am), ext]

section
variable {rd ra : Reg} {sub am : Nat} {ext : Word} {i : Instr}

theorem encode_of_decodeControl (h : decodeControl (rd.bits == 0#3) (ra.bits == 0#3) rd sub am ext = some i) :
    encode i = wordsFrom 0#4 rd ra sub am ext i := by
  unfold decodeControl at h
  split at h
  all_goals simp only [onlyIf_eq_some, bits_beq_zero, Bool.and_eq_true, decide_eq_true_eq, reduceCtorEq] at h
  · obtain ⟨⟨rfl, rfl⟩, rfl⟩ := h; rfl
  · obtain ⟨⟨rfl, rfl⟩, rfl⟩ := h; rfl
  · obtain ⟨⟨rfl, rfl⟩, rfl⟩ := h; rfl
  · obtain ⟨rfl, rfl⟩ := h; rfl
  · obtain ⟨⟨rfl, rfl⟩, rfl⟩ := h; rfl

theorem encode_of_decodeMov (h : decodeMov (ra.bits == 0#3) rd ra sub am ext = some i) :
    encode i = wordsFrom 1#4 rd ra sub am ext i := by
  unfold decodeMov at h
  split at h
  all_goals simp only [onlyIf_eq_some, bits_beq_zero, decide_eq_true_eq, Option.some.injEq, reduceCtorEq] at h
  · subst h; rfl
  · obtain ⟨rfl, rfl⟩ := h; rfl

theorem encode_of_decodeLoad (h : decodeLoad (ra.bits == 0#3) rd ra sub am ext = some i) :
    encode i = wordsFrom 2#4 rd ra sub am ext i := by
  unfold decodeLoad at h
  split at h
  all_goals simp only [onlyIf_eq_some, bits_beq_zero, decide_eq_true_eq, Option.some.injEq, reduceCtorEq] at h
  · subst h; rfl
  · subst h; rfl
  · obtain ⟨rfl, rfl⟩ := h; rfl
  · obtain ⟨rfl, rfl⟩ := h; rfl

theorem encode_of_decodeStore (h : decodeStore (ra.bits == 0#3) rd ra sub am ext = some i) :
    encode i = wordsFrom 3#4 rd ra sub am ext i := by
  unfold decodeStore at h
  split at h
  all_goals simp only [onlyIf_eq_some, bits_beq_zero, decide_eq_true_eq, Option.some.injEq, reduceCtorEq] at h
  · subst h; rfl
  · subst h; rfl
  · obtain ⟨rfl, rfl⟩ := h; rfl
  · obtain ⟨rfl, rfl⟩ := h; rfl

theorem encode_of_decodeAlu (h : decodeAlu (rd.bits == 0#3) rd ra sub am ext = some i) :
    encode i = wordsFrom 4#4 rd ra sub am ext i := by
  unfold decodeAlu at h
  split at h
  all_goals simp only [onlyIf_eq_some, bits_beq_zero, decide_eq_true_eq, Option.some.injEq, reduceCtorEq] at h
  case h_15 => obtain ⟨rfl, rfl⟩ := h; rfl
  case h_16 => obtain ⟨rfl, rfl⟩ := h; rfl
  all_goals subst h; rfl

theorem encode_of_decodeHelper (h : decodeHelper rd ra sub am ext = some i) :
    encode i = wordsFrom 5#4 rd ra sub am ext i := by
  unfold decodeHelper at h
  split at h
  all_goals simp only [Option.some.injEq, reduceCtorEq] at h
  all_goals subst h; rfl

theorem encode_of_decodeBranch (h : decodeBranch (rd.bits == 0#3) (ra.bits == 0#3) sub am ext = some i) :
    encode i = wordsFrom 6#4 rd ra sub am ext i := by
  unfold decodeBranch at h
  split at h
  all_goals simp only [onlyIf_eq_some, bits_beq_zero, Bool.and_eq_true, decide_eq_true_eq, reduceCtorEq] at h
  all_goals obtain ⟨⟨rfl, rfl⟩, rfl⟩ := h; rfl

theorem encode_of_decodeStack (h : decodeStack (ra.bits == 0#3) rd sub am = some i) :
    encode i = wordsFrom 7#4 rd ra sub am ext i := by
  unfold decodeStack at h
  split at h
  all_goals simp only [onlyIf_eq_some, bits_beq_zero, decide_eq_true_eq, reduceCtorEq] at h
  all_goals obtain ⟨rfl, rfl⟩ := h; rfl

theorem encode_of_decodeMmio (h : decodeMmio (ra.bits == 0#3) rd sub am ext = some i) :
    encode i = wordsFrom 8#4 rd ra sub am ext i := by
  unfold decodeMmio at h
  split at h
  all_goals simp only [onlyIf_eq_some, bits_beq_zero, decide_eq_true_eq, reduceCtorEq] at h
  all_goals obtain ⟨rfl, rfl⟩ := h; rfl

theorem encode_of_decodeAtomic (h : decodeAtomic (ra.bits == 0#3) rd sub am ext = some i) :
    encode i = wordsFrom 9#4 rd ra sub am ext i := by
  unfold decodeAtomic at h
  split at h
  all_goals simp only [onlyIf_eq_some, bits_beq_zero, decide_eq_true_eq, reduceCtorEq] at h
  all_goals obtain ⟨rfl, rfl⟩ := h; rfl

theorem encode_of_decodeEvent (h : decodeEvent (rd.bits == 0#3) (ra.bits == 0#3) rd sub am = some i) :
    encode i = wordsFrom 10#4 rd ra sub am ext i := by
  unfold decodeEvent at h
  split at h
  all_goals simp only [onlyIf_eq_some, bits_beq_zero, Bool.and_eq_true, decide_eq_true_eq, reduceCtorEq] at h
  · obtain ⟨⟨rfl, rfl⟩, rfl⟩ := h; rfl
  · obtain ⟨rfl, rfl⟩ := h; rfl
  · obtain ⟨⟨rfl, rfl⟩, rfl⟩ := h; rfl

/-- The OP field decides which of the classes a packed word is in. -/
theorem encode_of_decodeForm_packWord {op : BitVec 4} {sub am : BitVec 3}
    (h : decodeForm (packWord op rd ra sub am) ext = some i) : encode i = wordsFrom op rd ra sub.toNat am.toNat ext i := by
  simp only [decodeForm, opField_packWord, rdField_packWord, raField_packWord, subField_packWord, amField_packWord,
    Reg.ofBits_bits] at h
  rw [show op = BitVec.ofNat 4 op.toNat by simp]
  generalize op.toNat = n at h
  split at h
  · exact encode_of_decodeControl h
  · exact encode_of_decodeMov h
  · exact encode_of_decodeLoad h
  · exact encode_of_decodeStore h
  · exact encode_of_decodeAlu h
  · exact encode_of_decodeHelper h
  · exact encode_of_decodeBranch h
  · exact encode_of_decodeStack h
  · exact encode_of_decodeMmio h
  · exact encode_of_decodeAtomic h
  · exact encode_of_decodeEvent h
  · cases h

end

theorem encode_of_decodeForm {w ext : Word} {i : Instr} (h : decodeForm w ext = some i) :
    encode i = if i.extWords = 0 then [w] else [w, ext] := by
  rw [← packWord_fields w] at h
  have henc := encode_of_decodeForm_packWord h
  rw [wordsFrom, BitVec.ofNat_toNat, BitVec.ofNat_toNat, BitVec.setWidth_eq, BitVec.setWidth_eq, packWord_fields] at henc
  exact henc

theorem decodeWords_eq_ok {w ext : Word} {i : Instr} :
    decodeWords w ext = .ok i ↔ decodeForm w ext = some i ∧ i.wellFormed = true := by
  unfold decodeWords
  cases decodeForm w ext with
  | none => simp
  | some j =>
    by_cases hj : j.wellFormed = true
    · simp only [hj, if_true, Except.ok.injEq, Option.some.injEq]
      exact ⟨fun h => ⟨h, h ▸ hj⟩, And.left⟩
    · simp only [hj, if_false, reduceCtorEq, Option.some.injEq, false_iff]
      rintro ⟨rfl, hi⟩
      exact hj hi

/-- Settles O16: the register B is read off the one word that such an instruction has. -/
theorem encodeOfDecodeIsIdentity : Obligations.EncodeOfDecodeIsIdentity := by
  intro w ext i h
  obtain ⟨hform, hwf⟩ := decodeWords_eq_ok.1 h
  have henc := encode_of_decodeForm hform
  refine ⟨hwf, henc, fun b hb => ?_⟩
  obtain ⟨w', hw', hsub⟩ := implicitB_encode hb
  rw [if_pos (implicitB_one_word hb), hw'] at henc
  obtain rfl : w' = w := by simpa using henc
  rw [hsub, Reg.ofBits_bits]

/-! ## The illegal primary words (R111, R122) -/

theorem onlyIf_eq_none {b : Bool} {i : Instr} : onlyIf b i = none ↔ ¬ b = true := by cases b <;> simp [onlyIf]

theorem decodeWords_illegalPrimary {w ext : Word} :
    decodeWords w ext = .error .illegalPrimary ↔ decodeForm w ext = none := by
  unfold decodeWords
  cases decodeForm w ext with
  | none => simp
  | some i => by_cases hi : i.wellFormed = true <;> simp [hi]

/-! Each class's illegal words in terms of SUB, AM and the emptiness of RD and RA. -/

section
variable {rz az : Bool} {rd ra : Reg} {sub am : Nat} {ext : Word}

theorem decodeControl_eq_none : decodeControl rz az rd sub am ext = none ↔
    ¬ ((sub ≤ 2 ∧ am = 0 ∧ rz = true ∧ az = true) ∨ (sub = 3 ∧ am = 0 ∧ az = true) ∨
      (sub = 4 ∧ am = 4 ∧ rz = true ∧ az = true)) := by
  unfold decodeControl
  split <;> grind [onlyIf_eq_none]

theorem decodeMov_eq_none : decodeMov az rd ra sub am ext = none ↔
    ¬ (sub = 0 ∧ (am = 0 ∨ (am = 4 ∧ az = true))) := by
  unfold decodeMov
  split <;> grind [onlyIf_eq_none]

theorem decodeLoad_eq_none : decodeLoad az rd ra sub am ext = none ↔
    ¬ (sub = 0 ∧ (am = 1 ∨ am = 2 ∨ ((am = 3 ∨ am = 5) ∧ az = true))) := by
  unfold decodeLoad
  split <;> grind [onlyIf_eq_none]

theorem decodeStore_eq_none : decodeStore az rd ra sub am ext = none ↔
    ¬ (sub = 0 ∧ (am = 1 ∨ am = 2 ∨ ((am = 3 ∨ am = 5) ∧ az = true))) := by
  unfold decodeStore
  split <;> grind [onlyIf_eq_none]

theorem decodeAlu_eq_none : decodeAlu rz rd ra sub am ext = none ↔
    ¬ ((am = 0 ∨ am = 4) ∧ (sub ≤ 6 ∨ (sub = 7 ∧ rz = true))) := by
  unfold decodeAlu
  split <;> grind [onlyIf_eq_none]

theorem decodeHelper_eq_none : decodeHelper rd ra sub am ext = none ↔
    ¬ ((sub ≤ 5 ∧ (am = 0 ∨ am = 4)) ∨ (sub = 6 ∧ am = 4)) := by
  unfold decodeHelper
  split <;> grind

theorem decodeBranch_eq_none : decodeBranch rz az sub am ext = none ↔
    ¬ (((sub ≤ 7 ∧ am = 5) ∨ (sub = 7 ∧ am = 0)) ∧ rz = true ∧ az = true) := by
  unfold decodeBranch
  split <;> grind [onlyIf_eq_none]

theorem decodeStack_eq_none : decodeStack az rd sub am = none ↔ ¬ (sub ≤ 1 ∧ am = 0 ∧ az = true) := by
  unfold decodeStack
  split <;> grind [onlyIf_eq_none]

theorem decodeMmio_eq_none : decodeMmio az rd sub am ext = none ↔ ¬ (sub ≤ 1 ∧ am = 3 ∧ az = true) := by
  unfold decodeMmio
  split <;> grind [onlyIf_eq_none]

theorem decodeAtomic_eq_none : decodeAtomic az rd sub am ext = none ↔ ¬ (sub ≤ 2 ∧ am = 3 ∧ az = true) := by
  unfold decodeAtomic
  split <;> grind [onlyIf_eq_none]

theorem decodeEvent_eq_none : decodeEvent rz az rd sub am = none ↔
    ¬ (((sub = 0 ∨ sub = 2) ∧ am = 0 ∧ rz = true ∧ az = true) ∨ (sub = 1 ∧ am = 0 ∧ az = true)) := by
  unfold decodeEvent
  split <;> grind [onlyIf_eq_none]

end

/-- One of R111's causes. -/
abbrev HasIllegalCause (w : Word) : Prop :=
  Machine.OpUnassigned w ∨ Machine.AmNotAdmitted w ∨ Machine.RegisterFieldUnused w ∨ Machine.SubFieldUnused w

/-- The decoder refuses a primary word for R111's causes: operation by operation, the two say the same of SUB, AM and the
emptiness of RD and RA. -/
theorem decodeForm_eq_none_iff (w ext : Word) : decodeForm w ext = none ↔ HasIllegalCause w := by
  have hop : (opField w).toNat < 16 := (opField w).isLt
  have hsub : (subField w).toNat < 8 := (subField w).isLt
  have ham : (amField w).toNat < 8 := (amField w).isLt
  simp only [decodeForm, HasIllegalCause, Machine.OpUnassigned, Machine.AmNotAdmitted, Machine.RegisterFieldUnused,
    Machine.SubFieldUnused]
  generalize (opField w).toNat = op at hop ⊢
  generalize (subField w).toNat = sub at hsub ⊢
  generalize (amField w).toNat = am at ham ⊢
  interval_cases op <;>
    simp only [decodeControl_eq_none, decodeMov_eq_none, decodeLoad_eq_none, decodeStore_eq_none, decodeAlu_eq_none,
      decodeHelper_eq_none, decodeBranch_eq_none, decodeStack_eq_none, decodeMmio_eq_none, decodeAtomic_eq_none,
      decodeEvent_eq_none, beq_iff_eq]
  all_goals interval_cases sub <;> grind

theorem word_eq_iff_fields (w v : Word) : w = v ↔
    opField w = opField v ∧ rdField w = rdField v ∧ raField w = raField v ∧ subField w = subField v ∧ amField w = amField v := by
  refine ⟨fun h => by simp [h], fun ⟨hop, hrd, hra, hsub, ham⟩ => ?_⟩
  rw [← packWord_fields w, ← packWord_fields v, hop, hrd, hra, hsub, ham]

/-- A row covers a word field by field. -/
theorem covers_iff (r : OpcodeRow) (w : Word) : r.covers w = true ↔
    opField w &&& r.mask.extractLsb' 12 4 = r.value.extractLsb' 12 4 ∧
      rdField w &&& r.mask.extractLsb' 9 3 = r.value.extractLsb' 9 3 ∧
      raField w &&& r.mask.extractLsb' 6 3 = r.value.extractLsb' 6 3 ∧
      subField w &&& r.mask.extractLsb' 3 3 = r.value.extractLsb' 3 3 ∧
      amField w &&& r.mask.extractLsb' 0 3 = r.value.extractLsb' 0 3 := by
  rw [OpcodeRow.covers, beq_iff_eq, word_eq_iff_fields]
  simp only [opField, rdField, raField, subField, amField, BitVec.extractLsb'_and]

theorem and_ones4 (x : BitVec 4) : x &&& 15#4 = x := BitVec.and_allOnes
theorem and_ones3 (x : BitVec 3) : x &&& 7#3 = x := BitVec.and_allOnes

/-- No row covers a word for R111's causes, likewise. -/
theorem rows_uncovering_iff (w : Word) : (∀ r ∈ opcodeRows, r.covers w = false) ↔ HasIllegalCause w := by
  simp only [← Bool.not_eq_true, covers_iff, opcodeRows, opcodeRowsMove, opcodeRowsAlu, opcodeRowsHelper, opcodeRowsRest,
    List.forall_mem_append, List.forall_mem_cons, List.not_mem_nil, IsEmpty.forall_iff, implies_true, and_true]
  simp only [BitVec.reduceExtractLsb', and_ones4, and_ones3, BitVec.and_zero, true_and, HasIllegalCause, Machine.OpUnassigned,
    Machine.AmNotAdmitted, Machine.RegisterFieldUnused, Machine.SubFieldUnused, ← BitVec.toNat_inj, BitVec.reduceToNat, ne_eq]
  have hop : (opField w).toNat < 16 := (opField w).isLt
  have hsub : (subField w).toNat < 8 := (subField w).isLt
  have ham : (amField w).toNat < 8 := (amField w).isLt
  generalize (opField w).toNat = op at hop ⊢
  generalize (subField w).toNat = sub at hsub ⊢
  generalize (amField w).toNat = am at ham ⊢
  interval_cases op <;> simp only [Nat.reduceEqDiff, false_and, true_and, and_true, not_false_eq_true, false_or, or_false,
    Nat.reduceLeDiff, true_or, or_true]
  all_goals interval_cases sub <;> grind

/-- Every row fixes OP, SUB and AM, and no two rows fix them alike. -/
theorem row_eq_of_covers {w : Word} {r q : OpcodeRow} (hr : r ∈ opcodeRows) (hq : q ∈ opcodeRows) (hrw : r.covers w = true)
    (hqw : q.covers w = true) : r = q := by
  have key : ∀ x ∈ opcodeRows, x.covers w = true → x.value &&& 0xF03F#16 = w &&& 0xF03F#16 := by
    intro x hx hxw
    have hmask : ∀ y ∈ opcodeRows, y.mask &&& 0xF03F#16 = 0xF03F#16 := by decide
    rw [OpcodeRow.covers, beq_iff_eq] at hxw
    rw [← hxw, BitVec.and_assoc, hmask x hx]
  have hnodup : (opcodeRows.map fun x => x.value &&& 0xF03F#16).Nodup := by decide
  exact List.inj_on_of_nodup_map hnodup hr hq ((key r hr hrw).trans (key q hq hqw).symm)

/-- Settles O17. -/
theorem illegalPrimaryWordsAreThoseOfNoRow : Obligations.IllegalPrimaryWordsAreThoseOfNoRow := by
  refine ⟨fun w ext => ?_, fun w r q => row_eq_of_covers, fun w ext => ?_, fun ext => ?_⟩
  · rw [decodeWords_illegalPrimary, decodeForm_eq_none_iff, rows_uncovering_iff]
  · rw [decodeWords_illegalPrimary, decodeForm_eq_none_iff]
  · exact decodeWords_of_encode (.inl rfl) rfl

end Sys2Proof
end

section
/-! How an instruction, a dispatch and a fault end, in the words of Sys2Proof/Safety.lean: the accounts (TICK, RUNSTATE, DIAG) are
settled last, so whatever was said of the other fields before a charge still holds after it. -/

namespace Sys2Proof.Machine

/-! ## Charging cycles touches the accounts alone (R262 step 4, R290) -/

/-- Everything but the accounts: TICK, RUNSTATE, DIAG and the event queue with its bitmap. -/
structure SameButAccounts (s t : State) : Prop where
  regs : t.regs = s.regs
  pc : t.pc = s.pc
  sp : t.sp = s.sp
  flags : t.flags = s.flags
  cap : t.cap = s.cap
  cause : t.cause = s.cause
  brecov : t.brecov = s.brecov
  hctx : t.hctx = s.hctx
  inhibit : t.inhibit = s.inhibit
  mem : t.mem = s.mem
  bus : t.bus = s.bus
  draws : t.draws = s.draws
  env : t.env = s.env

theorem sameButAccounts_charge (n : Nat) (s : State) : SameButAccounts s (charge n s) := by constructor <;> simp

theorem sameButAccounts_countInstr (s : State) : SameButAccounts s s.countInstr := by constructor <;> rfl

theorem sameButAccounts_setEvq (q : List Byte) (s : State) : SameButAccounts s (s.setEvq q) := by constructor <;> rfl

theorem SameButAccounts.refl (s : State) : SameButAccounts s s := by constructor <;> rfl

theorem SameButAccounts.trans {s t u : State} (h : SameButAccounts s t) (h' : SameButAccounts t u) : SameButAccounts s u where
  regs := h'.regs.trans h.regs
  pc := h'.pc.trans h.pc
  sp := h'.sp.trans h.sp
  flags := h'.flags.trans h.flags
  cap := h'.cap.trans h.cap
  cause := h'.cause.trans h.cause
  brecov := h'.brecov.trans h.brecov
  hctx := h'.hctx.trans h.hctx
  inhibit := h'.inhibit.trans h.inhibit
  mem := h'.mem.trans h.mem
  bus := h'.bus.trans h.bus
  draws := h'.draws.trans h.draws
  env := h'.env.trans h.env

theorem SameButAccounts.devices {s t : State} (h : SameButAccounts s t) :
    t.mem = s.mem ∧ t.bus = s.bus ∧ t.draws = s.draws ∧ t.inhibit = s.inhibit :=
  ⟨h.mem, h.bus, h.draws, h.inhibit⟩

/-- A dispatch does not speak of the accounts, on either side. -/
theorem Dispatched.congr {cls : DispatchClass} {code : Byte} {resume : Word} {s s' t t' : State}
    (h : Dispatched cls code resume s t) (hs : SameButAccounts s s') (ht : SameButAccounts t t') :
    Dispatched cls code resume s' t' where
  cause := ht.cause.trans h.cause
  handed := by rw [State.reg_def, ht.regs]; exact h.handed
  regs q hq := by rw [State.reg_def, State.reg_def, ht.regs, hs.regs]; exact h.regs q hq
  stored := by
    obtain ⟨⟨u, v, h1, h2, h3⟩, hrest⟩ := h.stored
    have same : ∀ w : State, w.mem = w.mem ∧ w.bus = w.bus ∧ w.draws = w.draws ∧ w.inhibit = w.inhibit :=
      fun _ => ⟨rfl, rfl, rfl, rfl⟩
    rw [FrameStored, hs.sp, hs.flags, hs.mem, ht.mem]
    exact ⟨⟨u, v, h1.congr hs.devices (same u), h2, h3.congr (same v) ht.devices⟩, hrest⟩
  sp := by rw [ht.sp, hs.sp]; exact h.sp
  flagI := by rw [State.flag, ht.flags]; exact h.flagI
  flagF := by rw [State.flag, State.flag, ht.flags, hs.flags]; exact h.flagF
  flags := by rw [ht.flags, hs.flags]; exact h.flags
  pc := by
    rw [ht.pc, h.pc]
    cases cls <;> simp only [handlerOf, hs.mem]
  context := by rw [ht.hctx, hs.hctx]; exact h.context
  fixed := by rw [SameFixed, ht.cap, ht.brecov, ht.env, hs.cap, hs.brecov, hs.env]; exact h.fixed

/-! ## Faults (R280, R282) -/

/-- A fault is recorded and dispatched, or ends the run with the record alone. -/
theorem faultTaken_raiseFault (k : FaultKind) (base : Nat) (s : State) : FaultTaken k base s (raiseFault k base s) where
  dispatched hctx hpush := by
    obtain ⟨t, ht, hd, hq, htick, hrun, hdiag⟩ :=
      enter_legal .fault (Config.faultCode k) s.pc (s := s.recordFault k) hpush
    have hraise : raiseFault k base s = charge (base + dispatchCost) t := by
      rw [raiseFault, if_neg (by simpa using hctx), ht]
    have hcharged := charged_charge (n := base + dispatchCost) (s := s) (u := t) htick hd.fixed.2.1
    rw [hrun, hdiag] at hcharged
    rw [hraise]
    refine ⟨hd.congr ?_ (sameButAccounts_charge _ _), ?_, hcharged⟩
    · constructor <;> rfl
    · rw [SameQueue, charge_evq, charge_evp, charge_qovf]; exact hq
  double h := by
    have hhalt : raiseFault k base s = (s.recordFault k).setRunState .haltPerm := by
      unfold raiseFault
      split
      · rfl
      · next hctx =>
        have hpush : ¬ PushesLegal s.sp := h.resolve_left (by simpa using hctx)
        rw [enter_illegal .fault (Config.faultCode k) s.pc (s := s.recordFault k) hpush]
    rw [hhalt]
    rfl

/-- Settles O54. -/
theorem raisingAFaultRecordsAndDispatches : Obligations.RaisingAFaultRecordsAndDispatches := fun k base s =>
  ⟨fun _ => faultTaken_raiseFault k base s, recorded_record k s.pc s.tick s.diag⟩

/-! ## Traps and events (R143, R144, R285) -/

theorem trapResult_raiseTrap (i : Instr) (id : Byte) (s : State) (hcost : i.baseCost = 1) :
    TrapResult (1 + i.extWords) id s (raiseTrap i id s) := by
  refine ⟨fun hpush => ?_, fun hpush => ?_⟩
  · obtain ⟨t, ht, hd, hq, htick, hrun, hdiag⟩ := enter_legal .trap id (s.pcNext i) hpush
    have hraise : raiseTrap i id s = charge 6 t.countInstr := by rw [raiseTrap, ht, hcost]; rfl
    have hcharged := charged_charge (n := 6) (s := s) (u := t.countInstr) htick hd.fixed.2.1
    rw [State.countInstr_runState, State.countInstr_diag, hrun, hdiag] at hcharged
    rw [hraise]
    refine ⟨hd.congr (.refl s) ((sameButAccounts_countInstr t).trans (sameButAccounts_charge _ _)), ?_, hcharged⟩
    rw [SameQueue, charge_evq, charge_evp, charge_qovf]
    exact hq
  · rw [raiseTrap, enter_illegal .trap id (s.pcNext i) hpush, ← hcost]
    exact faultTaken_raiseFault _ _ s

theorem dispatchEvent_legal (id : Byte) (rest : List Byte) {s : State} (hpush : PushesLegal s.sp) :
    Dispatched .event id s.pc s (dispatchEvent id rest s) ∧ (dispatchEvent id rest s).evq = rest ∧
      (dispatchEvent id rest s).evp = evpOf rest ∧ (dispatchEvent id rest s).qovf = s.qovf ∧
      Charged 5 s.runState s.diag s (dispatchEvent id rest s) := by
  obtain ⟨t, ht, hd, ⟨-, -, hqovf⟩, htick, hrun, hdiag⟩ := enter_legal .event id s.pc hpush
  have hdisp : dispatchEvent id rest s = charge 5 (t.setEvq rest) := by rw [dispatchEvent, ht]; rfl
  have hcharged := charged_charge (n := 5) (s := s) (u := t.setEvq rest) htick hd.fixed.2.1
  rw [State.setEvq_runState, State.setEvq_diag, hrun, hdiag] at hcharged
  rw [hdisp]
  exact ⟨hd.congr (.refl s) ((sameButAccounts_setEvq rest t).trans (sameButAccounts_charge _ _)), by simp, by simp,
    by simpa using hqovf, hcharged⟩

theorem dispatchEvent_illegal (id : Byte) (rest : List Byte) {s : State} (hpush : ¬ PushesLegal s.sp) :
    FaultTaken (pushFault s.sp) 0 s (dispatchEvent id rest s) := by
  rw [dispatchEvent, enter_illegal .event id s.pc hpush]
  exact faultTaken_raiseFault _ _ s

/-- Settles O25. -/
theorem trapTakesTheTrapDispatch : Obligations.TrapTakesTheTrapDispatch := fun rd _ s =>
  ⟨isWords_of_encode (.inl rfl) rfl rfl, _, rfl, trapResult_raiseTrap (.trap rd) ((s.reg rd).setWidth 8) s rfl⟩

/-! ## The checks of extension words (R105, R106, R114) -/

theorem swiLegal_iff (ext : Word) : swiLegal ext = true ↔ SwiLegal ext := by
  rw [swiLegal, beq_iff_eq, ← BitVec.toNat_inj, hiByte, BitVec.extractLsb'_toNat, Nat.shiftRight_eq_div_pow]
  simp only [BitVec.toNat_ofNat]
  omega

theorem scvLegal_iff (ext : Word) : scvLegal ext = true ↔ ScvLegal ext := by
  rw [scvLegal, beq_iff_eq, ← BitVec.toNat_inj, BitVec.extractLsb'_toNat, Nat.shiftRight_eq_div_pow]
  rfl

theorem sext8_loByte (ext : Word) : sext8 (loByte ext) = (ext.setWidth 8).signExtend 16 := rfl

theorem toInt_sext8_loByte (ext : Word) : (sext8 (loByte ext)).toInt = (ext.setWidth 8).toInt := by
  rw [sext8_loByte, BitVec.toInt_signExtend_of_le (by decide)]

theorem dispLegal_iff (ext : Word) : dispLegal ext = true ↔ DispLegal ext := by
  rw [dispLegal, beq_iff_eq, ← BitVec.toInt_inj, toInt_sext8_loByte, BitVec.toInt_eq_toNat_cond, BitVec.toInt_eq_toNat_cond,
    BitVec.toNat_setWidth]
  have := ext.isLt
  split <;> split <;> omega

/-- Settles O26. -/
theorem swiTakesTheTrapDispatch : Obligations.SwiTakesTheTrapDispatch := by
  intro ext s
  refine ⟨fun h => ?_, fun h => ?_, fun h => ?_⟩
  · exact isWords_of_encode (.inr rfl) ((swiLegal_iff ext).2 h) rfl
  · refine ⟨_, if_pos ((swiLegal_iff ext).2 h), ?_⟩
    exact trapResult_raiseTrap (.swi ext) (ext.setWidth 8) s rfl
  · exact ⟨_, if_neg (mt (swiLegal_iff ext).1 h), faultTaken_raiseFault .illegal 1 s⟩

/-! ## Retirement (R262 step 4) -/

/-- The special registers and hidden state that no instruction of the plain families writes before it retires. -/
def SameSpecial (s t : State) : Prop :=
  SameCore s t ∧ t.tick = s.tick ∧ t.runState = s.runState ∧ t.diag = s.diag

theorem SameSpecial.refl (s : State) : SameSpecial s s :=
  ⟨⟨⟨rfl, rfl, rfl⟩, ⟨rfl, rfl⟩, rfl, rfl, rfl⟩, rfl, rfl, rfl⟩

theorem SameBut.special {s t : State} (h : SameBut s t) : SameSpecial s t :=
  ⟨⟨⟨h.evq, h.evp, h.qovf⟩, ⟨h.cause, h.hctx⟩, h.cap, h.brecov, h.env⟩, h.tick, h.runState, h.diag⟩

theorem sameCore_retire {n : Nat} {s u : State} (h : SameCore s u) : SameCore s (retire n u) := by
  simpa [SameCore, SameQueue, SameContext, SameFixed] using h

theorem ended_retire {n : Nat} {pc sp : Word} {s u : State} (h : SameSpecial s u) (hpc : u.pc = pc) (hsp : u.sp = sp) :
    Ended n pc sp s (retire n u) := by
  obtain ⟨hcore, htick, hrun, hdiag⟩ := h
  have ⟨_, _, _, hbrecov, _⟩ := hcore
  exact ⟨(retire_pc n u).trans hpc, (retire_sp n u).trans hsp, sameCore_retire hcore, retired_retire htick hbrecov hrun hdiag⟩

/-- What is said of memory and the devices before a retirement holds after it. -/
theorem devices_retire {n : Nat} {s u : State}
    (h : u.mem = s.mem ∧ u.bus = s.bus ∧ u.draws = s.draws ∧ u.inhibit = s.inhibit) :
    (retire n u).mem = s.mem ∧ (retire n u).bus = s.bus ∧ (retire n u).draws = s.draws ∧ (retire n u).inhibit = s.inhibit := by
  simpa using h

theorem DataRead.congr {d : Diag} {a v : Word} {s t t' : State} (h : DataRead d a v s t)
    (ht : t'.mem = t.mem ∧ t'.bus = t.bus ∧ t'.draws = t.draws ∧ t'.inhibit = t.inhibit) : DataRead d a v s t' := by
  obtain ⟨hmem, hbus, hdraws, hinhibit⟩ := ht
  exact ⟨fun x => by rw [hmem, h.mem x], by rw [hinhibit, h.inhibit], by rw [hbus, hdraws]; exact h.plain,
    by rw [hbus, hdraws]; exact h.device, by rw [hbus, hdraws]; exact h.diag⟩

theorem DeviceWritten.congr {a v : Word} {s t t' : State} (h : DeviceWritten a v s t)
    (ht : t'.mem = t.mem ∧ t'.bus = t.bus ∧ t'.draws = t.draws ∧ t'.inhibit = t.inhibit) : DeviceWritten a v s t' := by
  obtain ⟨hmem, hbus, hdraws, hinhibit⟩ := ht
  exact ⟨fun x => by rw [hmem, h.mem x], by rw [hdraws, h.draws], by rw [hbus, hinhibit]; exact h.allowed,
    by rw [hbus, hinhibit]; exact h.inhibited⟩

theorem sameRegs_retire {n : Nat} {s u : State} (h : SameRegs s u) : SameRegs s (retire n u) := fun q =>
  (retire_reg n u q).trans (h q)

theorem wrote_retire {n : Nat} {rd : Reg} {v : Word} {s u : State} (h : Wrote rd v s u) : Wrote rd v s (retire n u) :=
  ⟨(retire_reg n u rd).trans h.1, fun q hq => (retire_reg n u q).trans (h.2 q hq)⟩

theorem wrote_setReg {rd : Reg} {v : Word} {s u : State} (h : u.regs = s.regs) : Wrote rd v s (u.setReg rd v) :=
  ⟨State.reg_setReg_same u rd v, fun q hq => (State.reg_setReg_other u rd q v hq).trans (by rw [State.reg_def, h]; rfl)⟩

theorem sameMem_retire {n : Nat} {s u : State} (h : SameMem s u) : SameMem s (retire n u) := by
  simpa [SameMem] using h

theorem sameDevices_retire {n : Nat} {s u : State} (h : SameDevices s u) : SameDevices s (retire n u) := by
  simpa [SameDevices] using h

/-- Settles O60. -/
theorem budgetFaultIsNotDispatched : Obligations.BudgetFaultIsNotDispatched := by
  intro n s
  have hcharged : Charged n s.runState s.diag s (charge n s) := charged_charge rfl rfl
  refine ⟨hcharged, fun hover => ?_, retired_retire rfl rfl rfl rfl, instrCounted_countInstr s.diag, fun q => ?_, ?_, ?_, ?_,
    ?_, fun x => ?_, ?_⟩
  · rw [(hcharged.beyond hover).2, charge_pc]
    exact recorded_record _ _ _ _
  all_goals simp [SameCore, SameQueue, SameContext, SameFixed, SameDevices]

end Sys2Proof.Machine
end

section
/-! The integer ALU and the math helpers (42_integer_alu.md, 43_math_helpers.md): what each operation computes, and the one
way in which all of them end. -/

namespace Sys2Proof.Machine

/-! ## Results as arithmetic (R161 to R187) -/

theorem add_eq_ofNat (a b : Word) : a + b = BitVec.ofNat 16 (a.toNat + b.toNat) := by
  rw [BitVec.ofNat_add, BitVec.ofNat_toNat, BitVec.ofNat_toNat, BitVec.setWidth_eq, BitVec.setWidth_eq]

theorem sub_eq_ofInt (a b : Word) : a - b = BitVec.ofInt 16 ((a.toNat : Int) - (b.toNat : Int)) := by
  apply BitVec.eq_of_toNat_eq
  have ha := a.isLt
  have hb := b.isLt
  rw [BitVec.toNat_sub, BitVec.toNat_ofInt]
  omega

theorem shiftCount_eq (b : Word) : shiftCount b = b.toNat % 16 := by
  rw [shiftCount, BitVec.extractLsb'_toNat, Nat.shiftRight_zero]

theorem shlValue_eq (a : Word) (n : Nat) : shlValue a n = a <<< n := by
  apply BitVec.eq_of_toNat_eq
  rw [shlValue, BitVec.toNat_ofNat, BitVec.toNat_shiftLeft, Nat.shiftLeft_eq]

theorem ofInt_div_pow (a : Word) (n : Nat) : BitVec.ofInt 16 (a.toInt / 2 ^ n) = a.sshiftRight n := by
  have h : (a.sshiftRight n).toInt = a.toInt / 2 ^ n := by
    rw [BitVec.toInt_sshiftRight, Int.shiftRight_eq_div_pow]; norm_cast
  rw [← h, BitVec.ofInt_toInt]

theorem mulValue_eq (a b : Word) : mulValue a b = a * b := by
  rw [mulValue, BitVec.ofNat_mul, BitVec.ofNat_toNat, BitVec.ofNat_toNat, BitVec.setWidth_eq, BitVec.setWidth_eq]

/-- Bits 31..16 of a 32-bit number are those of its quotient by 65536. -/
theorem extract_high_ofInt (x : Int) : (BitVec.ofInt 32 x).extractLsb' 16 16 = BitVec.ofInt 16 (x / 65536) := by
  apply BitVec.eq_of_toNat_eq
  rw [BitVec.extractLsb'_toNat, BitVec.toNat_ofInt, BitVec.toNat_ofInt, Nat.shiftRight_eq_div_pow]
  omega

theorem mulhValue_eq (a b : Word) :
    mulhValue a b = (a.signExtend 32 * b.signExtend 32).extractLsb' 16 16 := by
  rw [mulhValue, ← extract_high_ofInt, BitVec.ofInt_mul]
  rfl

theorem divValue_toNat (a b : Word) : (divValue a b).toNat = if b.toNat = 0 then 0 else a.toNat / b.toNat := by
  unfold divValue
  split
  · rfl
  · rw [BitVec.toNat_ofNat]
    exact Nat.mod_eq_of_lt (lt_of_le_of_lt (Nat.div_le_self _ _) a.isLt)

theorem modValue_toNat (a b : Word) : (modValue a b).toNat = if b.toNat = 0 then 0 else a.toNat % b.toNat := by
  unfold modValue
  split
  · rfl
  · rw [BitVec.toNat_ofNat, ← Nat.mod_def]
    exact Nat.mod_eq_of_lt (lt_of_le_of_lt (Nat.mod_le _ _) a.isLt)

theorem satS16_toInt (n : Int) : (satS16 n).toInt = max (-32768) (min 32767 n) := by
  rw [satS16, BitVec.toInt_ofInt, Int.bmod_def]
  omega

/-! ## How they end (R262 step 4) -/

/-- An instruction that cannot fault writes its result, its FLAGS and PC, and retires. -/
theorem aluResult_result (i : Instr) (rd : Reg) (v fl : Word) (s : State) : ∃ t, aluResult i rd v fl s = .next t ∧
    RegResult (1 + i.extWords) i.baseCost rd v s t ∧ t.flags = fl := by
  have hspecial : SameSpecial s (writeResult i rd v fl s) := SameSpecial.refl s
  exact ⟨_, rfl, ⟨ended_retire hspecial rfl rfl, wrote_retire (wrote_setReg rfl), sameMem_retire fun _ => rfl,
    sameDevices_retire ⟨rfl, rfl, rfl⟩⟩, retire_flags _ _⟩

theorem moveWith_result (i : Instr) (rd : Reg) (v : Word) (s : State) : ∃ t, moveWith i rd v s = .next t ∧
    MoveResult (1 + i.extWords) i.baseCost rd v s t := by
  obtain ⟨t, ht, hres, hfl⟩ := aluResult_result i rd v (moveFlags v s.flags) s
  exact ⟨t, ht, hres, flagsOf_setZNCV hfl⟩

theorem plainWith_result (i : Instr) (rd : Reg) (v : Word) (s : State) : ∃ t, plainWith i rd v s = .next t ∧
    QuietResult (1 + i.extWords) i.baseCost rd v s t :=
  aluResult_result i rd v s.flags s

theorem addWith_result (i : Instr) (rd : Reg) (a b : Word) (s : State) (hcost : i.baseCost = 1) :
    ∃ t, addWith i rd a b s = .next t ∧ SumResult (1 + i.extWords) rd a b s t := by
  obtain ⟨t, ht, hres, hfl⟩ := aluResult_result i rd (a + b) (addFlags a b s.flags) s
  rw [hcost] at hres
  refine ⟨t, ht, ?_⟩
  rw [SumResult, ← add_eq_ofNat]
  exact ⟨hres, flagsOf_setZNCV hfl⟩

theorem differenceFlags_of_flags {a b : Word} {s t : State} (h : t.flags = subFlags a b s.flags) :
    DifferenceFlags a b s t := by
  rw [DifferenceFlags, ← sub_eq_ofInt]
  exact flagsOf_setZNCV h

theorem subWith_result (i : Instr) (rd : Reg) (a b : Word) (s : State) : ∃ t, subWith i rd a b s = .next t ∧
    DifferenceFlags a b s t ∧
      RegResult (1 + i.extWords) i.baseCost rd (BitVec.ofInt 16 ((a.toNat : Int) - (b.toNat : Int))) s t := by
  obtain ⟨t, ht, hres, hfl⟩ := aluResult_result i rd (a - b) (subFlags a b s.flags) s
  rw [← sub_eq_ofInt]
  exact ⟨t, ht, differenceFlags_of_flags hfl, hres⟩

/-- An instruction that writes FLAGS and PC alone. -/
theorem noResult_retire (n : Nat) (pc fl : Word) (s : State) :
    NoResult n pc s (retire n ((s.setFlags fl).setPc pc)) := by
  have hspecial : SameSpecial s ((s.setFlags fl).setPc pc) := SameSpecial.refl s
  exact ⟨ended_retire hspecial rfl rfl, sameRegs_retire fun _ => rfl, sameMem_retire fun _ => rfl,
    sameDevices_retire ⟨rfl, rfl, rfl⟩⟩

theorem cmpWith_result (i : Instr) (a b : Word) (s : State) : ∃ t, cmpWith i a b s = .next t ∧
    DifferenceFlags a b s t ∧ NoResult i.baseCost (s.pcNext i) s t :=
  ⟨_, rfl, differenceFlags_of_flags (retire_flags _ _), noResult_retire _ _ _ s⟩

theorem shlWith_result (i : Instr) (rd : Reg) (a b : Word) (s : State) : ∃ t, shlWith i rd a b s = .next t ∧
    RegResult (1 + i.extWords) i.baseCost rd (a <<< (b.toNat % 16)) s t ∧
      FlagsOf (a <<< (b.toNat % 16)) (shiftedOut (b.toNat % 16) (a.getLsbD (16 - b.toNat % 16)) s) false s t := by
  rw [← shiftCount_eq, ← shlValue_eq]
  obtain ⟨t, ht, hres, hfl⟩ := aluResult_result i rd (shlValue a (shiftCount b))
    (shiftFlags (shlValue a (shiftCount b)) (shiftCount b) (shlLast a (shiftCount b)) s.flags) s
  exact ⟨t, ht, hres, flagsOf_setZNCV hfl⟩

theorem shrWith_result (i : Instr) (rd : Reg) (a b : Word) (s : State) : ∃ t, shrWith i rd a b s = .next t ∧
    RegResult (1 + i.extWords) i.baseCost rd (a.sshiftRight (b.toNat % 16)) s t ∧
      FlagsOf (a.sshiftRight (b.toNat % 16)) (shiftedOut (b.toNat % 16) (a.getLsbD (b.toNat % 16 - 1)) s) false s t := by
  rw [← shiftCount_eq, ← ofInt_div_pow]
  obtain ⟨t, ht, hres, hfl⟩ := aluResult_result i rd (shrValue a (shiftCount b))
    (shiftFlags (shrValue a (shiftCount b)) (shiftCount b) (shrLast a (shiftCount b)) s.flags) s
  exact ⟨t, ht, hres, flagsOf_setZNCV hfl⟩

/-! ## MOV (R150) -/

/-- Settles O27: the words of OP 0x1 that are no MOV have one of R111's causes. -/
theorem movCopiesAndSetsFlags : Obligations.MovCopiesAndSetsFlags := by
  intro rd ra ext w s
  refine ⟨isWords_of_encode (.inl rfl) rfl rfl, isWords_of_encode (.inr rfl) rfl rfl, fun hop hbad => ?_,
    moveWith_result (.movReg rd ra) rd _ s, moveWith_result (.movImm rd ext) rd _ s⟩
  rw [decodeWords_illegalPrimary, decodeForm_eq_none_iff]
  rcases hbad with hbad | hbad | ⟨ham, hra⟩
  · exact .inr (.inl (.inr (.inr (.inl ⟨.inl hop, hbad⟩))))
  · exact .inr (.inr (.inr ⟨by omega, by omega, hbad⟩))
  · exact .inr (.inr (.inl (.inr ⟨hra, .inr (.inl ⟨hop, ham⟩)⟩)))

/-! ## The integer ALU (R161 to R168) -/

/-- Settles O31. -/
theorem addIsTheSumWithCarryAndOverflow : Obligations.AddIsTheSumWithCarryAndOverflow := fun rd ra ext s =>
  ⟨⟨isWords_of_encode (.inl rfl) rfl rfl, isWords_of_encode (.inr rfl) rfl rfl⟩,
    addWith_result (.addReg rd ra) rd _ _ s rfl, addWith_result (.addImm rd ra ext) rd _ _ s rfl⟩

/-- Settles O32. -/
theorem subAndCmpAreTheDifferenceWithBorrow : Obligations.SubAndCmpAreTheDifferenceWithBorrow := fun rd ra ext s =>
  ⟨⟨isWords_of_encode (.inl rfl) rfl rfl, isWords_of_encode (.inr rfl) rfl rfl, isWords_of_encode (.inl rfl) rfl rfl,
      isWords_of_encode (.inr rfl) rfl rfl⟩,
    subWith_result (.subReg rd ra) rd _ _ s, subWith_result (.subImm rd ra ext) rd _ _ s,
    cmpWith_result (.cmpReg ra) _ _ s, cmpWith_result (.cmpImm ra ext) _ _ s⟩

/-- Settles O33. -/
theorem logicIsBitwiseAndClearsCarryAndOverflow : Obligations.LogicIsBitwiseAndClearsCarryAndOverflow := fun rd ra ext s =>
  ⟨⟨isWords_of_encode (.inl rfl) rfl rfl, isWords_of_encode (.inr rfl) rfl rfl, isWords_of_encode (.inl rfl) rfl rfl,
      isWords_of_encode (.inr rfl) rfl rfl, isWords_of_encode (.inl rfl) rfl rfl, isWords_of_encode (.inr rfl) rfl rfl⟩,
    moveWith_result (.andReg rd ra) rd _ s, moveWith_result (.andImm rd ra ext) rd _ s,
    moveWith_result (.orReg rd ra) rd _ s, moveWith_result (.orImm rd ra ext) rd _ s,
    moveWith_result (.xorReg rd ra) rd _ s, moveWith_result (.xorImm rd ra ext) rd _ s⟩

/-- Settles O34. -/
theorem shlShiftsLeftByFourBitsOfB : Obligations.ShlShiftsLeftByFourBitsOfB := fun rd ra ext s =>
  ⟨⟨isWords_of_encode (.inl rfl) rfl rfl, isWords_of_encode (.inr rfl) rfl rfl⟩,
    shlWith_result (.shlReg rd ra) rd _ _ s, shlWith_result (.shlImm rd ra ext) rd _ _ s⟩

/-- Settles O35. -/
theorem shrShiftsRightArithmetically : Obligations.ShrShiftsRightArithmetically := fun rd ra ext s =>
  ⟨⟨isWords_of_encode (.inl rfl) rfl rfl, isWords_of_encode (.inr rfl) rfl rfl⟩,
    shrWith_result (.shrReg rd ra) rd _ _ s, shrWith_result (.shrImm rd ra ext) rd _ _ s⟩

/-! ## The math helpers (R181 to R187) -/

/-- Settles O36. -/
theorem mulAndMulhAreTheProductHalves : Obligations.MulAndMulhAreTheProductHalves := by
  intro rd ra ext s
  simp only [← mulValue_eq, ← mulhValue_eq]
  exact ⟨⟨isWords_of_encode (.inl rfl) rfl rfl, isWords_of_encode (.inr rfl) rfl rfl, isWords_of_encode (.inl rfl) rfl rfl,
      isWords_of_encode (.inr rfl) rfl rfl⟩,
    plainWith_result (.mulReg rd ra) rd _ s, plainWith_result (.mulImm rd ra ext) rd _ s,
    plainWith_result (.mulhReg rd ra) rd _ s, plainWith_result (.mulhImm rd ra ext) rd _ s⟩

theorem plainWith_value (i : Instr) (rd : Reg) (u : Word) (s : State) {n : Nat} (hu : u.toNat = n) :
    ∃ t v, plainWith i rd u s = .next t ∧ QuietResult (1 + i.extWords) i.baseCost rd v s t ∧ v.toNat = n := by
  obtain ⟨t, ht, hres⟩ := plainWith_result i rd u s
  exact ⟨t, u, ht, hres, hu⟩

/-- Settles O37. -/
theorem divAndModAreUnsignedAndZeroForZero : Obligations.DivAndModAreUnsignedAndZeroForZero := by
  intro rd ra ext s
  exact ⟨⟨isWords_of_encode (.inl rfl) rfl rfl, isWords_of_encode (.inr rfl) rfl rfl, isWords_of_encode (.inl rfl) rfl rfl,
      isWords_of_encode (.inr rfl) rfl rfl⟩,
    plainWith_value (.divReg rd ra) rd _ s (divValue_toNat _ _), plainWith_value (.divImm rd ra ext) rd _ s (divValue_toNat _ _),
    plainWith_value (.modReg rd ra) rd _ s (modValue_toNat _ _), plainWith_value (.modImm rd ra ext) rd _ s (modValue_toNat _ _)⟩

theorem moveWith_value (i : Instr) (rd : Reg) (u : Word) (s : State) {n : Int} (hu : u.toInt = n) :
    ∃ t v, moveWith i rd u s = .next t ∧ MoveResult (1 + i.extWords) i.baseCost rd v s t ∧ v.toInt = n := by
  obtain ⟨t, ht, hres⟩ := moveWith_result i rd u s
  exact ⟨t, u, ht, hres, hu⟩

/-- Settles O38. -/
theorem qaddAndQsubClamp : Obligations.QaddAndQsubClamp := by
  intro rd ra ext s
  exact ⟨⟨isWords_of_encode (.inl rfl) rfl rfl, isWords_of_encode (.inr rfl) rfl rfl, isWords_of_encode (.inl rfl) rfl rfl,
      isWords_of_encode (.inr rfl) rfl rfl⟩,
    moveWith_value (.qaddReg rd ra) rd _ s (satS16_toInt _), moveWith_value (.qaddImm rd ra ext) rd _ s (satS16_toInt _),
    moveWith_value (.qsubReg rd ra) rd _ s (satS16_toInt _), moveWith_value (.qsubImm rd ra ext) rd _ s (satS16_toInt _)⟩

/-- Bit 15 of SCV's control word is its direction. -/
theorem getLsbD_15_iff (w : Word) : w.getLsbD 15 = true ↔ 0x8000 ≤ w.toNat := by
  have h : w.getLsbD 15 = w.msb := by rw [BitVec.msb_eq_getLsbD_last]
  rw [h, BitVec.msb_eq_decide, decide_eq_true_eq]

theorem scvValue_left {a ext : Word} (h : ext.toNat < 0x8000) :
    (scvValue a ext).toInt = max (-32768) (min 32767 (a.toInt * 2 ^ (ext.toNat % 16))) := by
  rw [scvValue, if_neg (by rw [getLsbD_15_iff]; omega), satS16_toInt, shiftCount_eq]

theorem scvValue_right {a ext : Word} (h : 0x8000 ≤ ext.toNat) : scvValue a ext = a.sshiftRight (ext.toNat % 16) := by
  rw [scvValue, if_pos ((getLsbD_15_iff ext).2 h), ofInt_div_pow, shiftCount_eq]

/-- Settles O39. -/
theorem scvShiftsWithSaturation : Obligations.ScvShiftsWithSaturation := by
  intro rd ra ext s
  refine ⟨fun h => ?_, fun h => ?_, fun h => ?_⟩
  · exact isWords_of_encode (.inr rfl) ((scvLegal_iff ext).2 h) rfl
  · obtain ⟨t, ht, hres⟩ := moveWith_result (.scv rd ra ext) rd (scvValue (s.reg ra) ext) s
    exact ⟨t, _, (if_pos ((scvLegal_iff ext).2 h)).trans ht, hres, scvValue_left, scvValue_right⟩
  · exact ⟨_, if_neg (mt (scvLegal_iff ext).1 h), faultTaken_raiseFault .illegal 1 s⟩

end Sys2Proof.Machine
end

section
/-! Control, branches, data movement, the stack, MMIO and the event instructions (40_control.md to 48_event.md): each either
retires from the state its accesses left, or is the fault of the access that cannot be made. -/

namespace Sys2Proof.Machine

/-! ## Effective addresses (R103, R105, R201) -/

theorem toNat_add_int (a b : Word) : ((a + b).toNat : Int) = (a.toNat + b.toInt) % 65536 := by
  rw [BitVec.toNat_add, BitVec.toInt_eq_toNat_cond]
  split <;> omega

theorem relTarget_toNat (i : Instr) (ext : Word) (s : State) (h : i.extWords = 1) :
    ((relTarget i ext s).toNat : Int) = (s.pc.toNat + 4 + ext.toInt) % 65536 := by
  rw [relTarget, toNat_add_int, State.pcNext, h, BitVec.toNat_add]
  simp only [BitVec.toNat_ofNat]
  omega

/-- Settles O22. -/
theorem effectiveAddressesWrap : Obligations.EffectiveAddressesWrap := by
  intro ra rd ext s
  have hdisp : ((eaDisp ra ext s).toNat : Int) = ((s.reg ra).toNat + (ext.setWidth 8).toInt) % 65536 := by
    rw [eaDisp, toNat_add_int, toInt_sext8_loByte]
  refine ⟨rfl, hdisp, fun hlegal => ?_, relTarget_toNat _ ext s rfl, relTarget_toNat _ ext s rfl, relTarget_toNat _ ext s rfl⟩
  have hcopy : ext = sext8 (loByte ext) := beq_iff_eq.1 ((dispLegal_iff ext).2 hlegal)
  rw [hdisp, ← toInt_sext8_loByte, ← hcopy]

/-! ## Jumps and branches (R140, R141, R200 to R203) -/

/-- An instruction that moves PC and nothing else. -/
theorem jumpResult_retire (n : Nat) (pc : Word) (s : State) : JumpResult n pc s (retire n (s.setPc pc)) :=
  ⟨noResult_retire n pc s.flags s, retire_flags _ _⟩

/-- Settles O23. -/
theorem nopAndSyncOnlyAdvance : Obligations.NopAndSyncOnlyAdvance := fun _ s =>
  ⟨⟨isWords_of_encode (.inl rfl) rfl rfl, isWords_of_encode (.inl rfl) rfl rfl⟩,
    ⟨_, rfl, jumpResult_retire 1 _ s⟩, ⟨_, rfl, jumpResult_retire 1 _ s⟩⟩

/-- Settles O42. -/
theorem jmpLoadsTheTarget : Obligations.JmpLoadsTheTarget := fun _ s =>
  ⟨isWords_of_encode (.inr rfl) rfl rfl, _, rfl, jumpResult_retire 2 _ s⟩

theorem branchIf_result (i : Instr) {b : Bool} {taken : Prop} (ext : Word) (s : State) (hcost : i.baseCost = 1)
    (hlen : i.extWords = 1) (hb : b = true ↔ taken) :
    ∃ t, branchIf i b ext s = .next t ∧ BranchResult taken ext s t := by
  have hpc : s.pcNext i = s.pc + 4#16 := by rw [State.pcNext, hlen]
  unfold branchIf
  by_cases htaken : taken
  · rw [if_pos (hb.2 htaken), relTarget, hpc]
    exact ⟨_, rfl, fun _ => jumpResult_retire 2 _ s, fun h => absurd htaken h⟩
  · rw [if_neg (mt hb.1 htaken), advance, hpc, hcost]
    exact ⟨_, rfl, fun h => absurd h htaken, fun _ => jumpResult_retire 1 _ s⟩

section
variable (s : State)

theorem condEq_iff : condEq s.flags = true ↔ s.flag .z = true := Iff.rfl

theorem condNe_iff : condNe s.flags = true ↔ s.flag .z = false := by simp [condNe, State.flag]

theorem condLt_iff : condLt s.flags = true ↔ s.flag .n ≠ s.flag .v := bne_iff_ne

theorem condLe_iff : condLe s.flags = true ↔ s.flag .z = true ∨ s.flag .n ≠ s.flag .v := by
  simp [condLe, State.flag]

theorem condGt_iff : condGt s.flags = true ↔ s.flag .z = false ∧ s.flag .n = s.flag .v := by
  simp [condGt, State.flag]

theorem condGe_iff : condGe s.flags = true ↔ s.flag .n = s.flag .v := beq_iff_eq

end

/-- Settles O40. -/
theorem branchesTestTheirConditions : Obligations.BranchesTestTheirConditions := fun ext s =>
  ⟨⟨isWords_of_encode (.inr rfl) rfl rfl, isWords_of_encode (.inr rfl) rfl rfl, isWords_of_encode (.inr rfl) rfl rfl,
      isWords_of_encode (.inr rfl) rfl rfl, isWords_of_encode (.inr rfl) rfl rfl, isWords_of_encode (.inr rfl) rfl rfl⟩,
    branchIf_result (.beq ext) ext s rfl rfl (condEq_iff s), branchIf_result (.bne ext) ext s rfl rfl (condNe_iff s),
    branchIf_result (.blt ext) ext s rfl rfl (condLt_iff s), branchIf_result (.ble ext) ext s rfl rfl (condLe_iff s),
    branchIf_result (.bgt ext) ext s rfl rfl (condGt_iff s), branchIf_result (.bge ext) ext s rfl rfl (condGe_iff s)⟩

/-! ### The signed order after CMP (R168) -/

theorem DifferenceFlags.z_iff {a b : Word} {s t : State} (h : DifferenceFlags a b s t) : t.flag .z = true ↔ a = b := by
  rw [FlagsOf.z h, decide_eq_true_eq, ← sub_eq_ofInt]
  bv_omega

/-- N differs from V exactly when the difference is negative as an integer: V says that its sign was lost. -/
theorem DifferenceFlags.lt_iff {a b : Word} {s t : State} (h : DifferenceFlags a b s t) :
    t.flag .n ≠ t.flag .v ↔ a.toInt < b.toInt := by
  rw [FlagsOf.n h, FlagsOf.v h, Ne, decide_eq_decide, ← sub_eq_ofInt, BitVec.toInt_sub, Int.bmod_def]
  have ha := a.toInt_lt
  have ha' := a.le_toInt
  have hb := b.toInt_lt
  have hb' := b.le_toInt
  omega

/-- Where a branch with this condition goes when it follows the two words of a CMP. -/
theorem branch_pc_after {i : Instr} {cond : Bool} {order : Prop} [Decidable order] {d : Word} {s u : State}
    (hcost : i.baseCost = 1) (hlen : i.extWords = 1) (hpc : u.pc = s.pc + 4#16) (hcond : cond = true ↔ order) :
    ∃ t, branchIf i cond d u = .next t ∧ t.pc = if order then s.pc + 8#16 + d else s.pc + 8#16 := by
  obtain ⟨t, ht, htaken, hnot⟩ := branchIf_result i d u hcost hlen hcond
  have h8 : u.pc + 4#16 = s.pc + 8#16 := by rw [hpc, BitVec.add_assoc]; rfl
  refine ⟨t, ht, ?_⟩
  split
  · next h => rw [← h8]; exact (htaken h).1.1.pc
  · next h => rw [← h8]; exact (hnot h).1.1.pc

/-- Settles O41. -/
theorem compareThenBranchIsSignedOrder : Obligations.CompareThenBranchIsSignedOrder := by
  intro ra b d s
  obtain ⟨u, hu, hflags, hno⟩ := cmpWith_result (.cmpImm ra b) (s.reg ra) b s
  have hpc : u.pc = s.pc + 4#16 := hno.1.pc
  have hz := hflags.z_iff
  have hlt := hflags.lt_iff
  have hz' : u.flag .z = false ↔ s.reg ra ≠ b := by rw [Ne, ← hz, Bool.not_eq_true]
  have hge : u.flag .n = u.flag .v ↔ ¬ (s.reg ra).toInt < b.toInt := by rw [← hlt, not_not]
  rw [← BitVec.toInt_inj] at hz
  rw [Ne, ← BitVec.toInt_inj] at hz'
  refine ⟨u, hu, branch_pc_after rfl rfl hpc ?_, branch_pc_after rfl rfl hpc ?_, branch_pc_after rfl rfl hpc ?_,
    branch_pc_after rfl rfl hpc ?_, branch_pc_after rfl rfl hpc ?_, branch_pc_after rfl rfl hpc ?_⟩
  · rw [condEq_iff, hz, BitVec.toInt_inj]
  · rw [condNe_iff, hz', Ne, BitVec.toInt_inj]
  · rw [condLt_iff, hlt]
  · rw [condLe_iff, hz, hlt]; omega
  · rw [condGt_iff, hz', hge]; omega
  · rw [condGe_iff, hge]; omega

/-! ## HALT (R142) -/

/-- Settles O24: HALT retires, and halts unless its own cycle brought TICK to the budget. -/
theorem haltStopsForTheTick : Obligations.HaltStopsForTheTick := by
  intro ext s
  refine ⟨isWords_of_encode (.inl rfl) rfl rfl, haltState s, rfl, ?_⟩
  obtain ⟨⟨⟨hpc, hsp, hcore, hcharged⟩, hregs, hmem, hdev⟩, hfl⟩ := jumpResult_retire 1 (s.pcNext .halt) s
  have hstate : haltState s = haltUnlessBudget (retire 1 (s.setPc (s.pcNext .halt))) := rfl
  generalize retire 1 (s.setPc (s.pcNext .halt)) = u at hstate hpc hsp hcore hcharged hregs hmem hdev hfl
  rw [hstate, haltUnlessBudget, budget]
  split
  · next hover =>
    exact ⟨hpc, hsp, hregs, hfl, hcore, hmem, hdev, hcharged.tick, fun h => absurd hover (by omega), hcharged.beyond⟩
  · next hunder =>
    exact ⟨hpc, hsp, hregs, hfl, hcore, hmem, hdev, hcharged.tick, fun h => ⟨rfl, (hcharged.within h).2⟩,
      fun h => absurd h hunder⟩

/-! ## LOAD and STORE (R151, R152) -/

theorem loadFrom_result (i : Instr) (rd : Reg) (ea : Word) (s : State) (hcost : i.baseCost = 2) :
    ∃ t, loadFrom i rd ea s = .next t ∧ LoadResult (1 + i.extWords) rd ea s t := by
  by_cases h : ReadLegal ea
  · obtain ⟨v, u, hu, hread, hsame⟩ := memRead_legal s h
    have hload : loadFrom i rd ea s =
        .next (retire i.baseCost (((u.setReg rd v).setFlags (moveFlags v s.flags)).setPc (s.pcNext i))) := by
      rw [loadFrom, hu]; rfl
    refine ⟨_, hload, fun _ => ⟨?_, v, ?_, flagsOf_setZNCV (retire_flags _ _), ?_⟩, fun hn => absurd h hn⟩
    · rw [hcost]; exact ended_retire hsame.special rfl hsame.sp
    · exact wrote_retire (wrote_setReg hsame.regs)
    · exact hread.congr (devices_retire ⟨rfl, rfl, rfl, rfl⟩)
  · refine ⟨_, by rw [loadFrom, memRead_illegal h]; rfl, fun hl => absurd hl h, fun _ => ?_⟩
    rw [hcost]
    exact faultTaken_raiseFault _ 2 s

/-- Settles O28. -/
theorem loadReadsTheWord : Obligations.LoadReadsTheWord := by
  intro rd ra ext s
  refine ⟨⟨isWords_of_encode (.inl rfl) rfl rfl, fun h => isWords_of_encode (.inr rfl) ((dispLegal_iff ext).2 h) rfl,
      isWords_of_encode (.inr rfl) rfl rfl, isWords_of_encode (.inr rfl) rfl rfl⟩,
    loadFrom_result (.loadInd rd ra) rd _ s rfl, loadFrom_result (.loadAbs rd ext) rd _ s rfl,
    loadFrom_result (.loadPcrel rd ext) rd _ s rfl, fun h => ?_, fun h => ?_⟩
  · obtain ⟨t, ht, hres⟩ := loadFrom_result (.loadDisp rd ra ext) rd (eaDisp ra ext s) s rfl
    exact ⟨t, (if_pos ((dispLegal_iff ext).2 h)).trans ht, hres⟩
  · exact ⟨_, if_neg (mt (dispLegal_iff ext).1 h), faultTaken_raiseFault .illegal 2 s⟩

theorem DataWritten.congr_target {a v : Word} {s t t' : State} (h : DataWritten a v s t)
    (ht : t'.mem = t.mem ∧ t'.bus = t.bus ∧ t'.draws = t.draws ∧ t'.inhibit = t.inhibit) : DataWritten a v s t' :=
  h.congr ⟨rfl, rfl, rfl, rfl⟩ ht

theorem storeTo_result (i : Instr) (rd : Reg) (ea : Word) (s : State) (hcost : i.baseCost = 2) :
    ∃ t, storeTo i rd ea s = .next t ∧ StoreResult (1 + i.extWords) (s.reg rd) ea s t := by
  by_cases h : WriteLegal ea
  · obtain ⟨u, hu, hwritten, hsame⟩ := memWrite_legal (s.reg rd) s h
    have hstore : storeTo i rd ea s = .next (retire i.baseCost (u.setPc (s.pcNext i))) := by rw [storeTo, hu]; rfl
    refine ⟨_, hstore, fun _ => ⟨?_, ?_, (retire_flags _ _).trans hsame.flags, ?_⟩, fun hn => absurd h hn⟩
    · rw [hcost]; exact ended_retire hsame.special rfl hsame.sp
    · exact sameRegs_retire fun q => congrArg (RegFile.get · q) hsame.regs
    · exact hwritten.congr_target (devices_retire ⟨rfl, rfl, rfl, rfl⟩)
  · refine ⟨_, by rw [storeTo, memWrite_illegal h]; rfl, fun hl => absurd hl h, fun _ => ?_⟩
    rw [hcost]
    exact faultTaken_raiseFault _ 2 s

/-- Settles O29. -/
theorem storeWritesTheWord : Obligations.StoreWritesTheWord := by
  intro rd ra ext s
  refine ⟨⟨isWords_of_encode (.inl rfl) rfl rfl, fun h => isWords_of_encode (.inr rfl) ((dispLegal_iff ext).2 h) rfl,
      isWords_of_encode (.inr rfl) rfl rfl, isWords_of_encode (.inr rfl) rfl rfl⟩,
    storeTo_result (.storeInd rd ra) rd _ s rfl, storeTo_result (.storeAbs rd ext) rd _ s rfl,
    storeTo_result (.storePcrel rd ext) rd _ s rfl, fun h => ?_, fun h => ?_⟩
  · obtain ⟨t, ht, hres⟩ := storeTo_result (.storeDisp rd ra ext) rd (eaDisp ra ext s) s rfl
    exact ⟨t, (if_pos ((dispLegal_iff ext).2 h)).trans ht, hres⟩
  · exact ⟨_, if_neg (mt (dispLegal_iff ext).1 h), faultTaken_raiseFault .illegal 2 s⟩

/-! ## The stack (R204, R209, R220 to R222) -/

theorem SameBut.sameRegs {s t : State} (h : SameBut s t) : SameRegs s t := fun q => congrArg (RegFile.get · q) h.regs

/-- What an instruction leaves that pushed `v` and then set PC. -/
theorem pushed_retire {n : Nat} {pc v : Word} {s u : State} (hwritten : DataWritten (s.sp - 2#16) v s u)
    (hsame : SameBut s u) : Ended n pc (s.sp - 2#16) s (retire n ((u.setSp (s.sp - 2#16)).setPc pc)) ∧
      SameRegs s (retire n ((u.setSp (s.sp - 2#16)).setPc pc)) ∧
      (retire n ((u.setSp (s.sp - 2#16)).setPc pc)).flags = s.flags ∧
      DataWritten (s.sp - 2#16) v s (retire n ((u.setSp (s.sp - 2#16)).setPc pc)) :=
  ⟨ended_retire hsame.special rfl rfl, sameRegs_retire hsame.sameRegs, (retire_flags _ _).trans hsame.flags,
    hwritten.congr_target (devices_retire ⟨rfl, rfl, rfl, rfl⟩)⟩

/-- Settles O43. -/
theorem callPushesTheReturnAddress : Obligations.CallPushesTheReturnAddress := by
  intro ext s
  refine ⟨isWords_of_encode (.inr rfl) rfl rfl, fun h => ?_, fun h => ?_⟩
  · obtain ⟨u, _, -, rfl, hpush, hwritten, hsame⟩ := pushWord_legal (v := s.pcNext (.call ext)) h
    exact ⟨_, by rw [exec, execCall, hpush]; rfl, pushed_retire hwritten hsame⟩
  · exact ⟨_, by rw [exec, execCall, pushWord_illegal h]; rfl, faultTaken_raiseFault _ 2 s⟩

/-- Settles O44. -/
theorem retPopsItsTarget : Obligations.RetPopsItsTarget := by
  intro ext s
  refine ⟨isWords_of_encode (.inl rfl) rfl rfl, fun h => ?_, fun h => ?_⟩
  · obtain ⟨v, u, _, rfl, hpop, hread, hsame⟩ := popWord_legal h
    have hexec : exec .ret s = .next (retire 2 ((u.setSp (s.sp + 2#16)).setPc v)) := by rw [exec, execRet, hpop]; rfl
    exact ⟨_, v, hexec, ended_retire hsame.special rfl rfl, sameRegs_retire hsame.sameRegs,
      (retire_flags _ _).trans hsame.flags, hread.congr (devices_retire ⟨rfl, rfl, rfl, rfl⟩)⟩
  · exact ⟨_, by rw [exec, execRet, popWord_illegal h]; rfl, faultTaken_raiseFault _ 2 s⟩

theorem push_legal (rd : Reg) {s : State} (h : WriteLegal (s.sp - 2#16)) :
    ∃ t, exec (.push rd) s = .next t ∧ Ended 1 (s.pc + 2#16) (s.sp - 2#16) s t ∧ SameRegs s t ∧ t.flags = s.flags ∧
      DataWritten (s.sp - 2#16) (s.reg rd) s t := by
  obtain ⟨u, _, -, rfl, hpush, hwritten, hsame⟩ := pushWord_legal (v := s.reg rd) h
  have hexec : exec (.push rd) s = .next (retire 1 ((u.setSp (s.sp - 2#16)).setPc (u.pc + 2#16))) := by
    rw [exec, execPush, hpush]; rfl
  rw [hsame.pc] at hexec
  exact ⟨_, hexec, pushed_retire hwritten hsame⟩

theorem pop_legal (rd : Reg) {s : State} (h : ReadLegal s.sp) :
    ∃ t v, exec (.pop rd) s = .next t ∧ Ended 1 (s.pc + 2#16) (s.sp + 2#16) s t ∧ Wrote rd v s t ∧ t.flags = s.flags ∧
      DataRead s.diag s.sp v s t := by
  obtain ⟨v, u, _, rfl, hpop, hread, hsame⟩ := popWord_legal h
  have hexec : exec (.pop rd) s =
      .next (retire 1 (((u.setSp (s.sp + 2#16)).setReg rd v).setPc (u.pc + 2#16))) := by
    rw [exec, execPop, hpop]; rfl
  exact ⟨_, v, hexec, ended_retire hsame.special (congrArg (· + 2#16) hsame.pc) rfl,
    wrote_retire (wrote_setReg hsame.regs), (retire_flags _ _).trans hsame.flags,
    hread.congr (devices_retire ⟨rfl, rfl, rfl, rfl⟩)⟩

/-- Settles O45. -/
theorem pushAndPopMoveOneWord : Obligations.PushAndPopMoveOneWord := fun rd _ s =>
  ⟨⟨isWords_of_encode (.inl rfl) rfl rfl, isWords_of_encode (.inl rfl) rfl rfl⟩, push_legal rd,
    fun h => ⟨_, by rw [exec, execPush, pushWord_illegal h]; rfl, faultTaken_raiseFault _ 1 s⟩, pop_legal rd,
    fun h => ⟨_, by rw [exec, execPop, popWord_illegal h]; rfl, faultTaken_raiseFault _ 1 s⟩⟩

end Sys2Proof.Machine
end

section
/-! MMIO and the event instructions (46_mmio.md to 48_event.md), and the step: its boundary, its inputs, its fetch
(60_exceptions.md R260 to R292, 30_encoding.md R110). -/

namespace Sys2Proof.Machine

/-! ## IN and OUT (R231, R232) -/

theorem mmioRead_legal {a : Word} (s : State) (h : MmioLegal a) : mmioRead a s = .ok (s.deviceAnswer a, s.busRead a) := by
  rw [mmioRead, mmioFault_legal h]

theorem mmioRead_illegal {a : Word} (s : State) (h : ¬ MmioLegal a) : mmioRead a s = .error (mmioAccessFault a) := by
  rw [mmioRead, mmioFault_illegal h]

theorem mmioWrite_legal {a : Word} (v : Word) (s : State) (h : MmioLegal a) : mmioWrite a v s = .ok (s.busWrite a v) := by
  rw [mmioWrite, mmioFault_legal h]

theorem mmioWrite_illegal {a : Word} (v : Word) (s : State) (h : ¬ MmioLegal a) :
    mmioWrite a v s = .error (mmioAccessFault a) := by
  rw [mmioWrite, mmioFault_illegal h]

theorem dataRead_busRead {a : Word} (d : Diag) (s : State) (h : MmioLegal a) :
    DataRead d a (s.deviceAnswer a) s (s.busRead a) where
  mem _ := rfl
  inhibit := rfl
  plain hlt := absurd h.2.1 (by omega)
  device _ _ := ⟨rfl, rfl, rfl⟩
  diag hle := absurd h.2.2 (by omega)

/-- Settles O46. -/
theorem inReadsTheDevice : Obligations.InReadsTheDevice := by
  intro rd ext s
  refine ⟨isWords_of_encode (.inr rfl) rfl rfl, fun h => ?_, fun h => ?_⟩
  · have hexec : exec (.inp rd ext) s = .next (retire 4 ((((s.busRead ext).setReg rd (s.deviceAnswer ext)).setFlags
        (moveFlags (s.deviceAnswer ext) s.flags)).setPc (s.pc + 4#16))) := by
      rw [exec, execInp, mmioRead_legal s h]; rfl
    exact ⟨_, s.deviceAnswer ext, hexec, ended_retire (SameSpecial.refl s) rfl rfl, wrote_retire (wrote_setReg rfl),
      flagsOf_setZNCV (retire_flags _ _), (dataRead_busRead s.diag s h).congr (devices_retire ⟨rfl, rfl, rfl, rfl⟩)⟩
  · exact ⟨_, by rw [exec, execInp, mmioRead_illegal s h]; rfl, faultTaken_raiseFault _ 4 s⟩

/-- Settles O47. -/
theorem outWritesTheDeviceOrLatchesInhibit : Obligations.OutWritesTheDeviceOrLatchesInhibit := by
  intro rd ext s
  refine ⟨isWords_of_encode (.inr rfl) rfl rfl, fun h => ?_, fun h => ?_⟩
  · have hexec : exec (.out rd ext) s = .next (retire 4 ((s.busWrite ext (s.reg rd)).setPc (s.pc + 4#16))) := by
      rw [exec, execOut, mmioWrite_legal _ s h]; rfl
    exact ⟨_, hexec, ended_retire (SameSpecial.refl s) rfl rfl, sameRegs_retire fun _ => rfl, retire_flags _ _,
      (busWrite_written ext (s.reg rd) s).1.congr (devices_retire ⟨rfl, rfl, rfl, rfl⟩)⟩
  · exact ⟨_, by rw [exec, execOut, mmioWrite_illegal _ s h]; rfl, faultTaken_raiseFault _ 4 s⟩

/-! ## The atomic operations (R241 to R243) -/

theorem modifyWord_legal {a : Word} (f : Word → Word) (s : State) (h : MmioLegal a) :
    modifyWord a f s = .ok ((s.busRead a).busWrite a (f (s.deviceAnswer a))) := by
  rw [modifyWord, mmioRead_legal s h]
  exact mmioWrite_legal _ _ h

theorem modifyWord_illegal {a : Word} (f : Word → Word) (s : State) (h : ¬ MmioLegal a) :
    modifyWord a f s = .error (mmioAccessFault a) := by
  rw [modifyWord, mmioRead_illegal s h]

/-- What a read of the device and a write of `w` leave, as one operation that then sets PC. -/
theorem readThenWritten_retire (a w pc : Word) (s : State) :
    Ended 4 pc s.sp s (retire 4 (((s.busRead a).busWrite a w).setPc pc)) ∧
      SameRegs s (retire 4 (((s.busRead a).busWrite a w).setPc pc)) ∧
      (retire 4 (((s.busRead a).busWrite a w).setPc pc)).flags = s.flags ∧
      ReadThenWritten a (s.deviceAnswer a) w s (retire 4 (((s.busRead a).busWrite a w).setPc pc)) := by
  obtain ⟨hmem, hdraws, hallowed, hinhibited⟩ : DeviceWritten a w (s.busRead a) _ :=
    (busWrite_written a w (s.busRead a)).1.congr
      (devices_retire (n := 4) (u := ((s.busRead a).busWrite a w).setPc pc) ⟨rfl, rfl, rfl, rfl⟩)
  exact ⟨ended_retire (SameSpecial.refl s) rfl rfl, sameRegs_retire fun _ => rfl, retire_flags _ _, rfl, hmem, hdraws,
    hallowed, hinhibited⟩

theorem bitMask_eq (index : Word) : bitMask index = 1#16 <<< (index.toNat % 16) := by rw [bitMask, shiftCount_eq]

/-- Settles O48. -/
theorem bsetAndBclrModifyOneBit : Obligations.BsetAndBclrModifyOneBit := by
  intro rd ext s
  simp only [← bitMask_eq]
  refine ⟨⟨isWords_of_encode (.inr rfl) rfl rfl, isWords_of_encode (.inr rfl) rfl rfl⟩, fun h => ⟨?_, ?_⟩,
    fun h => ⟨?_, ?_⟩⟩
  · have hexec : exec (.bset rd ext) s = .next (retire 4 (((s.busRead ext).busWrite ext
        (s.deviceAnswer ext ||| bitMask (s.reg rd))).setPc (s.pc + 4#16))) := by
      rw [exec, execBset, modifyWord_legal _ s h]; rfl
    exact ⟨_, _, hexec, readThenWritten_retire ext _ _ s⟩
  · have hexec : exec (.bclr rd ext) s = .next (retire 4 (((s.busRead ext).busWrite ext
        (s.deviceAnswer ext &&& ~~~(bitMask (s.reg rd)))).setPc (s.pc + 4#16))) := by
      rw [exec, execBclr, modifyWord_legal _ s h]; rfl
    exact ⟨_, _, hexec, readThenWritten_retire ext _ _ s⟩
  · exact ⟨_, by rw [exec, execBset, modifyWord_illegal _ s h]; rfl, faultTaken_raiseFault _ 4 s⟩
  · exact ⟨_, by rw [exec, execBclr, modifyWord_illegal _ s h]; rfl, faultTaken_raiseFault _ 4 s⟩

/-- Settles O49. -/
theorem btestSetsZeroFlagAlone : Obligations.BtestSetsZeroFlagAlone := by
  intro rd ext s
  rw [← shiftCount_eq]
  refine ⟨isWords_of_encode (.inr rfl) rfl rfl, fun h => ?_, fun h => ?_⟩
  · have hexec : exec (.btest rd ext) s = .next (retire 4 (((s.busRead ext).setFlags
        (testFlags ((s.deviceAnswer ext).getLsbD (shiftCount (s.reg rd))) s.flags)).setPc (s.pc + 4#16))) := by
      rw [exec, execBtest, mmioRead_legal s h]; rfl
    refine ⟨_, s.deviceAnswer ext, hexec, ended_retire (SameSpecial.refl s) rfl rfl, sameRegs_retire fun _ => rfl,
      (dataRead_busRead s.diag s h).congr (devices_retire ⟨rfl, rfl, rfl, rfl⟩), ?_, fun j h1 h16 => ?_⟩
    · rw [State.flag, retire_flags]
      exact getFlag_putFlag_same .z _ _
    · rw [retire_flags]
      exact (getLsbD_putFlag .z _ _ j h16).trans (if_neg (by rw [Flag.bit]; omega))
  · exact ⟨_, by rw [exec, execBtest, mmioRead_illegal s h]; rfl, faultTaken_raiseFault _ 4 s⟩

/-! ## The event instructions (R250 to R252) -/

/-- Settles O50. -/
theorem ewaitStallsOnlyOnAnEmptyQueue : Obligations.EwaitStallsOnlyOnAnEmptyQueue := by
  intro ext s
  refine ⟨isWords_of_encode (.inl rfl) rfl rfl, fun h => by rw [exec, execEwait, h], fun h => ?_⟩
  obtain ⟨id, rest, hq⟩ := List.exists_cons_of_ne_nil h
  exact ⟨_, by rw [exec, execEwait, hq]; rfl, jumpResult_retire 1 _ s⟩

/-- Settles O51: the queue is empty, or its head is taken. -/
theorem egetTakesTheOldestEvent : Obligations.EgetTakesTheOldestEvent := by
  intro rd ext s
  refine ⟨isWords_of_encode (.inl rfl) rfl rfl, ?_⟩
  cases hq : s.evq with
  | nil =>
    have hexec : exec (.eget rd) s = .next (retire 1 ((s.setReg rd 0#16).setPc (s.pc + 2#16))) := by
      rw [exec, execEget, hq]; rfl
    refine ⟨_, hexec, wrote_retire (wrote_setReg rfl), by simp [hq], fun _ => by simp, fun h => absurd rfl h, ?_⟩
    exact ⟨by simp, by simp [SameContext], by simp [SameFixed], sameMem_retire fun _ => rfl,
      sameDevices_retire ⟨rfl, rfl, rfl⟩, by simp, by simp, by simp, retired_retire rfl rfl rfl rfl⟩
  | cons id rest =>
    have hexec : exec (.eget rd) s =
        .next (retire 1 (((s.setEvq rest).setReg rd (id.setWidth 16)).setPc (s.pc + 2#16))) := by
      rw [exec, execEget, hq]; rfl
    refine ⟨_, hexec, wrote_retire (wrote_setReg rfl), by simp, fun h => by simp at h, fun _ => by simp, ?_⟩
    exact ⟨by simp, by simp [SameContext], by simp [SameFixed], sameMem_retire fun _ => rfl,
      sameDevices_retire ⟨rfl, rfl, rfl⟩, by simp, by simp, by simp, retired_retire rfl rfl rfl rfl⟩

theorem SameBut.trans {s t u : State} (h : SameBut s t) (h' : SameBut t u) : SameBut s u where
  regs := h'.regs.trans h.regs
  pc := h'.pc.trans h.pc
  sp := h'.sp.trans h.sp
  flags := h'.flags.trans h.flags
  tick := h'.tick.trans h.tick
  cap := h'.cap.trans h.cap
  cause := h'.cause.trans h.cause
  evp := h'.evp.trans h.evp
  evq := h'.evq.trans h.evq
  qovf := h'.qovf.trans h.qovf
  runState := h'.runState.trans h.runState
  brecov := h'.brecov.trans h.brecov
  hctx := h'.hctx.trans h.hctx
  diag := h'.diag.trans h.diag
  env := h'.env.trans h.env

/-- The three reads of ERET, one after the other (R252). -/
theorem leaveHandler_legal {cls : DispatchClass} {ctx : List DispatchClass} {s : State} (hctx : s.hctx = cls :: ctx)
    (h0 : ReadLegal s.sp) (h2 : ReadLegal (s.sp + 2#16)) (h4 : ReadLegal (s.sp + 4#16)) :
    ∃ c w p s1 s2 s3,
      leaveHandler s = .ok (((((s3.setSp (s.sp + 6#16)).setCause c).setFlags (poppedFlags w)).setPc p).setHctx ctx) ∧
      DataRead s.diag s.sp c s s1 ∧ DataRead s.diag (s.sp + 2#16) w s1 s2 ∧ DataRead s.diag (s.sp + 4#16) p s2 s3 ∧
      SameBut s s3 := by
  obtain ⟨c, s1, e1, r1, k1⟩ := memRead_legal s h0
  obtain ⟨w, s2, e2, r2, k2⟩ := memRead_legal s1 h2
  obtain ⟨p, s3, e3, r3, k3⟩ := memRead_legal s2 h4
  rw [k1.diag] at r2
  rw [k2.diag, k1.diag] at r3
  exact ⟨c, w, p, s1, s2, s3, by simp only [leaveHandler, hctx, e1, e2, e3], r1, r2, r3, (k1.trans k2).trans k3⟩

theorem leaveHandler_outside {s : State} (h : s.hctx = []) : leaveHandler s = .error .eretContext := by
  rw [leaveHandler, h]

/-- The first of the three reads that cannot be made is ERET's fault. -/
theorem leaveHandler_illegal {s : State} (hctx : s.hctx ≠ []) :
    (¬ ReadLegal s.sp → leaveHandler s = .error (accessFault s.sp)) ∧
      (ReadLegal s.sp → ¬ ReadLegal (s.sp + 2#16) → leaveHandler s = .error (accessFault (s.sp + 2#16))) ∧
      (ReadLegal s.sp → ReadLegal (s.sp + 2#16) → ¬ ReadLegal (s.sp + 4#16) →
        leaveHandler s = .error (accessFault (s.sp + 4#16))) := by
  obtain ⟨cls, ctx, hc⟩ := List.exists_cons_of_ne_nil hctx
  refine ⟨fun h0 => ?_, fun h0 h2 => ?_, fun h0 h2 h4 => ?_⟩
  · simp only [leaveHandler, hc, memRead_illegal h0]
  · obtain ⟨c, s1, e1, -, -⟩ := memRead_legal s h0
    simp only [leaveHandler, hc, e1, memRead_illegal h2]
  · obtain ⟨c, s1, e1, -, -⟩ := memRead_legal s h0
    obtain ⟨w, s2, e2, -, -⟩ := memRead_legal s1 h2
    simp only [leaveHandler, hc, e1, e2, memRead_illegal h4]

theorem exec_eret_error {k : FaultKind} {s : State} (h : leaveHandler s = .error k) :
    ∃ t, exec .eret s = .next t ∧ FaultTaken k 4 s t :=
  ⟨_, by rw [exec, execEret, h]; rfl, faultTaken_raiseFault k 4 s⟩

/-- Settles O52. -/
theorem eretPopsTheFrame : Obligations.EretPopsTheFrame := by
  intro ext s
  refine ⟨isWords_of_encode (.inl rfl) rfl rfl, fun cls ctx hctx h0 h2 h4 => ?_, fun h => exec_eret_error (leaveHandler_outside h),
    fun h h0 => exec_eret_error ((leaveHandler_illegal h).1 h0),
    fun h h0 h2 => exec_eret_error ((leaveHandler_illegal h).2.1 h0 h2),
    fun h h0 h2 h4 => exec_eret_error ((leaveHandler_illegal h).2.2 h0 h2 h4)⟩
  obtain ⟨c, w, p, s1, s2, s3, hleave, r1, r2, r3, hsame⟩ := leaveHandler_legal hctx h0 h2 h4
  have hexec : exec .eret s = .next (retire 4 (((((s3.setSp (s.sp + 6#16)).setCause c).setFlags (poppedFlags w)).setPc p).setHctx
      ctx)) := by
    rw [exec, execEret, hleave]; rfl
  refine ⟨_, s1, s2, w, hexec, ?_, r2, ?_, retire_flags _ _, retire_sp _ _, retire_hctx _ _, sameRegs_retire hsame.sameRegs,
    ?_, ?_, retired_retire hsame.tick hsame.brecov hsame.runState hsame.diag⟩
  · rw [retire_cause]; exact r1
  · rw [retire_pc]; exact r3.congr (devices_retire ⟨rfl, rfl, rfl, rfl⟩)
  · simpa [SameQueue] using (⟨hsame.evq, hsame.evp, hsame.qovf⟩ : SameQueue s s3)
  · simpa [SameFixed] using (⟨hsame.cap, hsame.brecov, hsame.env⟩ : SameFixed s s3)

/-! ## The inputs of a boundary (R260, R262, R284, R291, R292, R320) -/

theorem acceptInputs_withNoInput (u : State) : acceptInputs u.withNoInput = u.setEnv u.env.tail :=
  acceptInputs_none (s := u.withNoInput) rfl

/-- The inputs may be applied ahead of the step that would have taken them. -/
theorem step_eq_step_applyInputs (s : State) : step s = step (applyInputs s.pendingInputs s).withNoInput := by
  rw [step, step, acceptInputs_withNoInput, applyInputs_env, ← applyInputs_setEnv]
  rfl

theorem enqueue_legal (id : Byte) {s : State} (h : s.evq.length < 4) :
    enqueue id s = { s with evq := s.evq ++ [id], evp := evpOf (s.evq ++ [id]) } := if_pos h

theorem enqueue_full (id : Byte) {s : State} (h : 4 ≤ s.evq.length) : enqueue id s = { s with qovf := true } :=
  if_neg (Nat.not_lt.2 h)

/-- Settles O59. -/
theorem inputsAreAppliedInOrder : Obligations.InputsAreAppliedInOrder := by
  refine ⟨fun s xs ids hids => ⟨fun hr ht => ?_, fun hr ht => ?_, fun hr ht => ?_, fun hr ht => ?_⟩,
    step_eq_step_applyInputs⟩
  all_goals
    rw [applyInputs, inputOrder, hr, ht, hids, List.foldl_append, List.foldl_append, List.foldl_map]
    rfl

section
variable {s : State}

theorem tickBoundary_run (h : s.runState = .run) : tickBoundary s = (s.setTick 0#16).setBrecov false := by
  rw [tickBoundary, h]

theorem tickBoundary_haltTick (h : s.runState = .haltTick) :
    tickBoundary s = ((s.setTick 0#16).setBrecov false).setRunState .run := by
  rw [tickBoundary, h]

theorem tickBoundary_haltBudget (h : s.runState = .haltBudget) : tickBoundary s =
    (((s.setTick 0#16).setPc (s.mem.readWord (vectorAddr .fault))).setBrecov true).setRunState .run := by
  rw [tickBoundary, h]

theorem tickBoundary_haltPerm (h : s.runState = .haltPerm) : tickBoundary s = s.setTick 0#16 := by
  rw [tickBoundary, h]

end

/-- Settles O57. -/
theorem tickBoundaryByRunState : Obligations.TickBoundaryByRunState := by
  intro s
  refine ⟨tickBoundary_run, tickBoundary_haltTick, tickBoundary_haltBudget, tickBoundary_haltPerm, fun h => ?_⟩
  rw [step_eq_step_applyInputs, h]
  rfl

/-- Settles O58. -/
theorem resetInputRestoresTheResetState : Obligations.ResetInputRestoresTheResetState := by
  refine fun s => ⟨rfl, fun x hx => ?_, fun h => ?_⟩
  · exact (Memory.read_loadRam_rom _ _ _ hx).trans (Memory.read_romPart _ _ hx)
  · rw [step_eq_step_applyInputs, h]; rfl

/-! ## What stands before the next instruction (R262 steps 1 to 3) -/

theorem step_atOverflow {s : State} (hin : s.pendingInputs = []) (hrun : s.runState = .run) (hovf : s.qovf = true) :
    step s = .next (raiseFault .evqOverflow 0 ((s.setEnv s.env.tail).setQovf false)) := by
  rw [step, acceptInputs_none hin, coreStep, State.setEnv_runState, hrun]
  simp only [State.setEnv_qovf, hovf, if_true]

/-- Settles O56. -/
theorem queueOverflowIsTakenFirst : Obligations.QueueOverflowIsTakenFirst := fun id s =>
  ⟨enqueue_legal id, enqueue_full id, fun hin hrun hovf =>
    ⟨_, step_atOverflow hin hrun hovf, faultTaken_raiseFault .evqOverflow 0 ((s.setEnv s.env.tail).setQovf false)⟩⟩

theorem step_atEvent {id : Byte} {rest : List Byte} {s : State} (hin : s.pendingInputs = []) (hrun : s.runState = .run)
    (hovf : s.qovf = false) (hi : s.flag .i = true) (hq : s.evq = id :: rest) :
    step s = .next (dispatchEvent id rest (s.setEnv s.env.tail)) := by
  have hi' : (s.setEnv s.env.tail).flag .i = true := hi
  rw [step, acceptInputs_none hin, coreStep, State.setEnv_runState, hrun]
  simp only [State.setEnv_qovf, hovf, Bool.false_eq_true, if_false, eventOrInstr, hi', State.setEnv_evq, hq]

/-- Settles O55. -/
theorem eventIsDispatchedAtTheBoundary : Obligations.EventIsDispatchedAtTheBoundary := by
  intro s id rest hin hrun hovf hi hq
  have hstep := step_atEvent hin hrun hovf hi hq
  refine ⟨fun hpush => ?_, fun hpush => ⟨_, hstep, dispatchEvent_illegal id rest (s := s.setEnv s.env.tail) hpush⟩⟩
  obtain ⟨hd, hevq, hevp, hqovf, hcharged⟩ := dispatchEvent_legal id rest (s := s.setEnv s.env.tail) hpush
  refine ⟨_, hstep, hd, hevq, hevp, hqovf.trans hovf, hcharged.tick, fun h => ?_, hcharged.beyond⟩
  rw [← hrun]
  exact hcharged.within h

/-! ## Fetch and decode (R110) -/

theorem step_atInstruction {s : State} (h : AtInstruction s) : step s = instrStep (s.setEnv s.env.tail) := by
  obtain ⟨hin, hrun, hovf, hnone⟩ := h
  rw [step, acceptInputs_none hin, coreStep, State.setEnv_runState, hrun]
  simp only [State.setEnv_qovf, hovf, Bool.false_eq_true, if_false, eventOrInstr]
  rcases hnone with hi | hq
  · have hi' : (s.setEnv s.env.tail).flag .i = false := hi
    simp only [hi']
  · cases (s.setEnv s.env.tail).flag .i <;> simp only [State.setEnv_evq, hq]

/-- The word whose bytes stand at an address. -/
abbrev State.wordAt (s : State) (a : Nat) : Word := s.mem.read a ++ s.mem.read (a + 1)

theorem toNat_add_two {a : Word} (h : FetchLegal a) : (a + 2#16).toNat = a.toNat + 2 := by
  obtain ⟨heven, hlt⟩ := h
  rw [BitVec.toNat_add]
  simp only [BitVec.toNat_ofNat]
  omega

section
variable {s : State}

theorem fetchInstr_unfetchable (h : ¬ FetchLegal s.pc) : fetchInstr s = .error ⟨.fetch, 0⟩ := by
  rw [fetchInstr, fetchWord_illegal h]

theorem fetchInstr_illegalPrimary (h : FetchLegal s.pc) (hform : decodeForm (s.wordAt s.pc.toNat) 0#16 = none) :
    fetchInstr s = .error ⟨.illegal, 0⟩ := by
  simp only [fetchInstr, fetchWord_legal h, hform]

theorem fetchInstr_oneWord {form : Instr} (h : FetchLegal s.pc) (hform : decodeForm (s.wordAt s.pc.toNat) 0#16 = some form)
    (hlen : form.extWords = 0) : fetchInstr s = .ok form := by
  simp only [fetchInstr, fetchWord_legal h, hform, hlen]

theorem fetchInstr_extUnfetchable {form : Instr} (h : FetchLegal s.pc)
    (hform : decodeForm (s.wordAt s.pc.toNat) 0#16 = some form) (hlen : form.extWords = 1) (hext : ¬ FetchLegal (s.pc + 2#16)) :
    fetchInstr s = .error ⟨.fetch, form.baseCost⟩ := by
  simp only [fetchInstr, fetchWord_legal h, hform, hlen, fetchWord_illegal hext]

theorem fetchInstr_twoWords {form i : Instr} (h : FetchLegal s.pc)
    (hform : decodeForm (s.wordAt s.pc.toNat) 0#16 = some form) (hlen : form.extWords = 1) (hext : FetchLegal (s.pc + 2#16))
    (hwords : decodeWords (s.wordAt s.pc.toNat) (s.wordAt (s.pc.toNat + 2)) = .ok i) : fetchInstr s = .ok i := by
  simp only [fetchInstr, fetchWord_legal h, hform, hlen, fetchWord_legal hext, toNat_add_two h, hwords]

theorem fetchInstr_illegalExt {form : Instr} (h : FetchLegal s.pc)
    (hform : decodeForm (s.wordAt s.pc.toNat) 0#16 = some form) (hlen : form.extWords = 1) (hext : FetchLegal (s.pc + 2#16))
    (hbad : ∀ i, decodeWords (s.wordAt s.pc.toNat) (s.wordAt (s.pc.toNat + 2)) ≠ .ok i) :
    fetchInstr s = .error ⟨.illegal, form.baseCost⟩ := by
  simp only [fetchInstr, fetchWord_legal h, hform, hlen, fetchWord_legal hext, toNat_add_two h]
  split
  · next i hi => exact absurd hi (hbad i)
  · rfl

end

theorem step_fetchFault {k : FaultKind} {base : Nat} {s : State} (hat : AtInstruction s)
    (hfetch : fetchInstr (s.setEnv s.env.tail) = .error ⟨k, base⟩) :
    ∃ t, step s = .next t ∧ FaultTaken k base (s.setEnv s.env.tail) t :=
  ⟨_, by rw [step_atInstruction hat, instrStep, hfetch], faultTaken_raiseFault k base _⟩

/-- Settles O20. -/
theorem fetchAndDecodeFaults : Obligations.FetchAndDecodeFaults := by
  intro s hat
  refine ⟨fun h => ?_, fun h hrows => ?_, fun form h hform hlen hext => ?_, fun form h hform hlen hext hbad => ?_⟩
  · exact step_fetchFault hat (fetchInstr_unfetchable h)
  · have hform := (decodeForm_eq_none_iff _ 0#16).2 ((rows_uncovering_iff _).1 hrows)
    exact step_fetchFault hat (fetchInstr_illegalPrimary h hform)
  · exact step_fetchFault hat (fetchInstr_extUnfetchable h hform hlen hext)
  · exact step_fetchFault hat (fetchInstr_illegalExt (s := s.setEnv s.env.tail) h hform hlen hext hbad)

/-- What four bytes decode to: a form of one word, or one with the second word as its extension word. -/
theorem decodeBytes_four {b0 b1 b2 b3 : Byte} {i : Instr} {rest : List Byte}
    (h : decodeBytes [b0, b1, b2, b3] = .ok (i, rest)) :
    ∃ form, decodeForm (b0 ++ b1) 0#16 = some form ∧ i.wellFormed = true ∧ i.extWords = form.extWords ∧
      ((form.extWords = 0 ∧ i = form) ∨ (form.extWords = 1 ∧ decodeWords (b0 ++ b1) (b2 ++ b3) = .ok i)) := by
  simp only [decodeBytes] at h
  cases hform : decodeForm (Machine.wordOf b0 b1) 0#16 with
  | none => simp [hform] at h
  | some form =>
    refine ⟨form, hform, ?_⟩
    cases hlen : form.extWords with
    | zero =>
      cases hwords : decodeWords (Machine.wordOf b0 b1) 0#16 with
      | error e => simp [hform, hlen, hwords] at h
      | ok j =>
        obtain ⟨hform', hwf⟩ := decodeWords_eq_ok.1 hwords
        obtain rfl : form = j := Option.some.inj (hform.symm.trans hform')
        obtain ⟨rfl, -⟩ : form = i ∧ _ := by simpa [hform, hlen, hwords] using h
        exact ⟨hwf, hlen, .inl ⟨rfl, rfl⟩⟩
    | succ n =>
      cases hwords : decodeWords (Machine.wordOf b0 b1) (Machine.wordOf b2 b3) with
      | error e => simp [hform, hlen, hwords] at h
      | ok j =>
        obtain ⟨hform', hwf⟩ := decodeWords_eq_ok.1 hwords
        obtain ⟨rfl, -⟩ : j = i ∧ _ := by simpa [hform, hlen, hwords] using h
        obtain ⟨form', hf, hlen', -⟩ := decodeForm_zero_of_decodeForm hform'
        obtain rfl : form = form' := Option.some.inj (hform.symm.trans hf)
        rcases encode_cases form with ⟨h0, -⟩ | ⟨h1, -⟩
        · omega
        · exact ⟨hwf, by omega, .inr ⟨by omega, hwords⟩⟩

/-- Settles O19. -/
theorem stepRunsTheDecodedInstruction : Obligations.StepRunsTheDecodedInstruction := by
  intro s i rest hat h hext hbytes
  obtain ⟨form, hform, hwf, hlen, hcase⟩ := decodeBytes_four hbytes
  refine ⟨hwf, ?_⟩
  rw [step_atInstruction hat, instrStep]
  rcases hcase with ⟨hflen, rfl⟩ | ⟨hflen, hwords⟩
  · rw [fetchInstr_oneWord (s := s.setEnv s.env.tail) h hform hflen]
  · rw [fetchInstr_twoWords (s := s.setEnv s.env.tail) h hform hflen (hext (hlen.trans hflen)) hwords]

end Sys2Proof.Machine
end

section
/-! Rules about the whole machine, put together from what each instruction and each input does: how registers and SP move, that
every step answers, what a halted core does, and what one access sees of another. -/

namespace Sys2Proof.Machine

/-! ## How an instruction ends: it completes, or a dispatch was entered (R262, R273, R280) -/

/-- What an instruction that enters no dispatch makes of the registers and SP. -/
structure Completes (i : Instr) (s t : State) : Prop where
  regs : ∀ q, destination i ≠ some q → t.reg q = s.reg q
  sp : t.sp = s.sp ∨ t.sp = s.sp - 2#16 ∨ t.sp = s.sp + 2#16 ∨ t.sp = s.sp + 6#16

def Ends (i : Instr) (s t : State) : Prop := Completes i s t ∨ ∃ cls code resume, Dispatched cls code resume s t

section
variable {i : Instr} {s t : State}

theorem Completes.of_sameRegs (hregs : SameRegs s t)
    (hsp : t.sp = s.sp ∨ t.sp = s.sp - 2#16 ∨ t.sp = s.sp + 2#16 ∨ t.sp = s.sp + 6#16) : Completes i s t :=
  ⟨fun q _ => hregs q, hsp⟩

theorem Completes.of_wrote {rd : Reg} {v : Word} (hd : destination i = some rd) (h : Wrote rd v s t)
    (hsp : t.sp = s.sp ∨ t.sp = s.sp - 2#16 ∨ t.sp = s.sp + 2#16 ∨ t.sp = s.sp + 6#16) : Completes i s t :=
  ⟨fun q hq => h.2 q fun e => hq (by rw [hd, e]), hsp⟩

theorem FaultTaken.ends {k : FaultKind} {base : Nat} (h : FaultTaken k base s t) : Ends i s t := by
  by_cases hd : DispatchClass.fault ∈ s.hctx ∨ ¬ PushesLegal s.sp
  · rw [h.double hd]
    exact .inl (.of_sameRegs (fun _ => rfl) (.inl rfl))
  · rw [not_or, not_not] at hd
    exact .inr ⟨_, _, _, (h.dispatched hd.1 hd.2).1⟩

theorem TrapResult.ends {words : Nat} {id : Byte} (h : TrapResult words id s t) : Ends i s t := by
  by_cases hpush : PushesLegal s.sp
  · exact .inr ⟨_, _, _, (h.1 hpush).1⟩
  · exact (h.2 hpush).ends

theorem aluResult_ends {rd : Reg} (v fl : Word) (hd : destination i = some rd) :
    ∃ t, aluResult i rd v fl s = .next t ∧ Ends i s t := by
  obtain ⟨t, ht, ⟨hend, hwrote, -⟩, -⟩ := aluResult_result i rd v fl s
  exact ⟨t, ht, .inl (.of_wrote hd hwrote (.inl hend.sp))⟩

theorem loadFrom_ends {rd : Reg} (ea : Word) (hd : destination i = some rd) (hcost : i.baseCost = 2) :
    ∃ t, loadFrom i rd ea s = .next t ∧ Ends i s t := by
  obtain ⟨t, ht, hlegal, hillegal⟩ := loadFrom_result i rd ea s hcost
  refine ⟨t, ht, ?_⟩
  by_cases h : ReadLegal ea
  · obtain ⟨hend, v, hwrote, -⟩ := hlegal h
    exact .inl (.of_wrote hd hwrote (.inl hend.sp))
  · exact (hillegal h).ends

theorem storeTo_ends (rd : Reg) (ea : Word) (hcost : i.baseCost = 2) :
    ∃ t, storeTo i rd ea s = .next t ∧ Ends i s t := by
  obtain ⟨t, ht, hlegal, hillegal⟩ := storeTo_result i rd ea s hcost
  refine ⟨t, ht, ?_⟩
  by_cases h : WriteLegal ea
  · obtain ⟨hend, hregs, -⟩ := hlegal h
    exact .inl (.of_sameRegs hregs (.inl hend.sp))
  · exact (hillegal h).ends

theorem illegalExt_ends : ∃ t, illegalExt i s = .next t ∧ Ends i s t :=
  ⟨_, rfl, (faultTaken_raiseFault .illegal i.baseCost s).ends⟩

theorem NoResult.ends {n : Nat} {pc : Word} (h : NoResult n pc s t) : Ends i s t :=
  .inl (.of_sameRegs h.2.1 (.inl h.1.sp))

theorem branchIf_ends (b : Bool) (ext : Word) : ∃ t, branchIf i b ext s = .next t ∧ Ends i s t := by
  cases b
  · exact ⟨_, rfl, (jumpResult_retire _ _ s).1.ends⟩
  · exact ⟨_, rfl, (jumpResult_retire _ _ s).1.ends⟩

/-- An access decides between the instruction's end and its fault. -/
theorem ends_of_access {o : Host.Outcome State Fault Refusal} {legal : Prop} {k : FaultKind} {base : Nat}
    (hlegal : legal → ∃ t, o = .next t ∧ Completes i s t) (hillegal : ¬ legal → ∃ t, o = .next t ∧ FaultTaken k base s t) :
    ∃ t, o = .next t ∧ Ends i s t := by
  by_cases h : legal
  · obtain ⟨t, ht, hc⟩ := hlegal h
    exact ⟨t, ht, .inl hc⟩
  · obtain ⟨t, ht, hf⟩ := hillegal h
    exact ⟨t, ht, hf.ends⟩

end

theorem exec_call_ends (ext : Word) (s : State) : ∃ t, exec (.call ext) s = .next t ∧ Ends (.call ext) s t := by
  obtain ⟨-, hlegal, hillegal⟩ := callPushesTheReturnAddress ext s
  refine ends_of_access (fun h => ?_) hillegal
  obtain ⟨t, ht, hend, hregs, -⟩ := hlegal h
  exact ⟨t, ht, .of_sameRegs hregs (.inr (.inl hend.sp))⟩

theorem exec_ret_ends (s : State) : ∃ t, exec .ret s = .next t ∧ Ends .ret s t := by
  obtain ⟨-, hlegal, hillegal⟩ := retPopsItsTarget 0#16 s
  refine ends_of_access (fun h => ?_) hillegal
  obtain ⟨t, v, ht, hend, hregs, -⟩ := hlegal h
  exact ⟨t, ht, .of_sameRegs hregs (.inr (.inr (.inl hend.sp)))⟩

theorem exec_push_ends (rd : Reg) (s : State) : ∃ t, exec (.push rd) s = .next t ∧ Ends (.push rd) s t := by
  obtain ⟨-, hlegal, hillegal, -⟩ := pushAndPopMoveOneWord rd 0#16 s
  refine ends_of_access (fun h => ?_) hillegal
  obtain ⟨t, ht, hend, hregs, -⟩ := hlegal h
  exact ⟨t, ht, .of_sameRegs hregs (.inr (.inl hend.sp))⟩

theorem exec_pop_ends (rd : Reg) (s : State) : ∃ t, exec (.pop rd) s = .next t ∧ Ends (.pop rd) s t := by
  obtain ⟨-, -, -, hlegal, hillegal⟩ := pushAndPopMoveOneWord rd 0#16 s
  refine ends_of_access (fun h => ?_) hillegal
  obtain ⟨t, v, ht, hend, hwrote, -⟩ := hlegal h
  exact ⟨t, ht, .of_wrote rfl hwrote (.inr (.inr (.inl hend.sp)))⟩

theorem exec_inp_ends (rd : Reg) (ext : Word) (s : State) :
    ∃ t, exec (.inp rd ext) s = .next t ∧ Ends (.inp rd ext) s t := by
  obtain ⟨-, hlegal, hillegal⟩ := inReadsTheDevice rd ext s
  refine ends_of_access (fun h => ?_) hillegal
  obtain ⟨t, v, ht, hend, hwrote, -⟩ := hlegal h
  exact ⟨t, ht, .of_wrote rfl hwrote (.inl hend.sp)⟩

theorem exec_out_ends (rd : Reg) (ext : Word) (s : State) :
    ∃ t, exec (.out rd ext) s = .next t ∧ Ends (.out rd ext) s t := by
  obtain ⟨-, hlegal, hillegal⟩ := outWritesTheDeviceOrLatchesInhibit rd ext s
  refine ends_of_access (fun h => ?_) hillegal
  obtain ⟨t, ht, hend, hregs, -⟩ := hlegal h
  exact ⟨t, ht, .of_sameRegs hregs (.inl hend.sp)⟩

theorem exec_bset_ends (rd : Reg) (ext : Word) (s : State) :
    ∃ t, exec (.bset rd ext) s = .next t ∧ Ends (.bset rd ext) s t := by
  obtain ⟨-, hlegal, hillegal⟩ := bsetAndBclrModifyOneBit rd ext s
  refine ends_of_access (fun h => ?_) fun h => (hillegal h).1
  obtain ⟨t, v, ht, hend, hregs, -⟩ := (hlegal h).1
  exact ⟨t, ht, .of_sameRegs hregs (.inl hend.sp)⟩

theorem exec_bclr_ends (rd : Reg) (ext : Word) (s : State) :
    ∃ t, exec (.bclr rd ext) s = .next t ∧ Ends (.bclr rd ext) s t := by
  obtain ⟨-, hlegal, hillegal⟩ := bsetAndBclrModifyOneBit rd ext s
  refine ends_of_access (fun h => ?_) fun h => (hillegal h).2
  obtain ⟨t, v, ht, hend, hregs, -⟩ := (hlegal h).2
  exact ⟨t, ht, .of_sameRegs hregs (.inl hend.sp)⟩

theorem exec_btest_ends (rd : Reg) (ext : Word) (s : State) :
    ∃ t, exec (.btest rd ext) s = .next t ∧ Ends (.btest rd ext) s t := by
  obtain ⟨-, hlegal, hillegal⟩ := btestSetsZeroFlagAlone rd ext s
  refine ends_of_access (fun h => ?_) hillegal
  obtain ⟨t, v, ht, hend, hregs, -⟩ := hlegal h
  exact ⟨t, ht, .of_sameRegs hregs (.inl hend.sp)⟩

theorem exec_ewait_ends (s : State) : ∃ t, exec .ewait s = .next t ∧ Ends .ewait s t := by
  obtain ⟨-, hstall, hgo⟩ := ewaitStallsOnlyOnAnEmptyQueue 0#16 s
  by_cases h : s.evq = []
  · exact ⟨s, hstall h, .inl (.of_sameRegs (fun _ => rfl) (.inl rfl))⟩
  · obtain ⟨t, ht, hno, -⟩ := hgo h
    exact ⟨t, ht, hno.ends⟩

theorem exec_eget_ends (rd : Reg) (s : State) : ∃ t, exec (.eget rd) s = .next t ∧ Ends (.eget rd) s t := by
  obtain ⟨-, t, ht, hwrote, -, -, -, -, -, -, -, -, hsp, -⟩ := egetTakesTheOldestEvent rd 0#16 s
  exact ⟨t, ht, .inl (.of_wrote rfl hwrote (.inl hsp))⟩

theorem exec_eret_ends (s : State) : ∃ t, exec .eret s = .next t ∧ Ends .eret s t := by
  obtain ⟨-, hlegal, hctx, h0, h2, h4⟩ := eretPopsTheFrame 0#16 s
  cases hc : s.hctx with
  | nil => exact ends_of_access (legal := False) False.elim fun _ => hctx hc
  | cons cls ctx =>
    have hne : s.hctx ≠ [] := by simp [hc]
    by_cases r0 : ReadLegal s.sp
    · by_cases r2 : ReadLegal (s.sp + 2#16)
      · refine ends_of_access (fun r4 => ?_) (h4 hne r0 r2)
        obtain ⟨t, _, _, _, ht, -, -, -, -, hsp, -, hregs, -⟩ := hlegal cls ctx hc r0 r2 r4
        exact ⟨t, ht, .of_sameRegs hregs (.inr (.inr (.inr hsp)))⟩
      · exact ends_of_access (legal := False) False.elim fun _ => h2 hne r0 r2
    · exact ends_of_access (legal := False) False.elim fun _ => h0 hne r0

/-- Every instruction answers a next state from every state, and it completed or a dispatch was entered. -/
theorem exec_ends (i : Instr) (s : State) : ∃ t, exec i s = .next t ∧ Ends i s t := by
  cases i
  case nop => exact ⟨_, rfl, (jumpResult_retire _ _ s).1.ends⟩
  case sync => exact ⟨_, rfl, (jumpResult_retire _ _ s).1.ends⟩
  case halt =>
    obtain ⟨-, t, ht, -, hsp, hregs, -⟩ := haltStopsForTheTick 0#16 s
    exact ⟨t, ht, .inl (.of_sameRegs hregs (.inl hsp))⟩
  case trap rd => exact ⟨_, rfl, (trapResult_raiseTrap (.trap rd) _ s rfl).ends⟩
  case swi ext =>
    rw [exec, execSwi]
    split
    · exact ⟨_, rfl, (trapResult_raiseTrap (.swi ext) _ s rfl).ends⟩
    · exact illegalExt_ends
  case loadInd => exact loadFrom_ends _ rfl rfl
  case loadDisp =>
    rw [exec, execLoadDisp]
    split
    · exact loadFrom_ends _ rfl rfl
    · exact illegalExt_ends
  case loadAbs => exact loadFrom_ends _ rfl rfl
  case loadPcrel => exact loadFrom_ends _ rfl rfl
  case storeInd => exact storeTo_ends _ _ rfl
  case storeDisp =>
    rw [exec, execStoreDisp]
    split
    · exact storeTo_ends _ _ rfl
    · exact illegalExt_ends
  case storeAbs => exact storeTo_ends _ _ rfl
  case storePcrel => exact storeTo_ends _ _ rfl
  case cmpReg => exact ⟨_, rfl, (noResult_retire _ _ _ s).ends⟩
  case cmpImm => exact ⟨_, rfl, (noResult_retire _ _ _ s).ends⟩
  case scv =>
    rw [exec, execScv]
    split
    · exact aluResult_ends _ _ rfl
    · exact illegalExt_ends
  case beq => exact branchIf_ends _ _
  case bne => exact branchIf_ends _ _
  case blt => exact branchIf_ends _ _
  case ble => exact branchIf_ends _ _
  case bgt => exact branchIf_ends _ _
  case bge => exact branchIf_ends _ _
  case jmp => exact ⟨_, rfl, (jumpResult_retire _ _ s).1.ends⟩
  case call ext => exact exec_call_ends ext s
  case ret => exact exec_ret_ends s
  case push rd => exact exec_push_ends rd s
  case pop rd => exact exec_pop_ends rd s
  case inp rd ext => exact exec_inp_ends rd ext s
  case out rd ext => exact exec_out_ends rd ext s
  case bset rd ext => exact exec_bset_ends rd ext s
  case bclr rd ext => exact exec_bclr_ends rd ext s
  case btest rd ext => exact exec_btest_ends rd ext s
  case ewait => exact exec_ewait_ends s
  case eget rd => exact exec_eget_ends rd s
  case eret => exact exec_eret_ends s
  all_goals exact aluResult_ends _ _ rfl

theorem ends_of_exec {i : Instr} {s t : State} (h : exec i s = .next t) : Ends i s t := by
  obtain ⟨u, hu, hends⟩ := exec_ends i s
  rw [h] at hu
  cases hu
  exact hends

theorem causeOf_low (cls : DispatchClass) (code : Byte) : causeOf cls code &&& 0x00FF#16 = code.setWidth 16 := by
  rw [← causeWord_eq, causeWord_low]

/-- Settles O10. -/
theorem registersChangeOnlyAsDestinations : Obligations.RegistersChangeOnlyAsDestinations := by
  intro i s t q h hq
  rcases ends_of_exec h with hc | ⟨cls, code, resume, hd⟩
  · exact .inl (hc.regs q hq)
  · by_cases h0 : q = .r0
    · exact .inr ⟨h0, ⟨cls, hd.context⟩, by rw [hd.handed, hd.cause, causeOf_low]⟩
    · exact .inl (hd.regs q h0)

/-- Settles O11. -/
theorem stackPointerMovesOnlyByTwoOrSix : Obligations.StackPointerMovesOnlyByTwoOrSix := by
  intro i s t h
  rcases ends_of_exec h with hc | ⟨cls, code, resume, hd⟩
  · rcases hc.sp with h | h | h | h <;> simp only [h, true_or, or_true]
  · exact .inr (.inr (.inr (.inl hd.sp)))

/-- Settles O12: beside the instructions, only halted cores and dispatches are left, and these are states. -/
theorem everyStepAnswersANextState : Obligations.EveryStepAnswersANextState := by
  intro s
  rw [step]
  rcases coreStep_cases (acceptInputs s) with ⟨-, h⟩ | ⟨-, -, h⟩ | ⟨-, -, id, rest, -, -, h⟩ |
    ⟨-, -, -, ⟨x, -, h⟩ | ⟨i, -, h⟩⟩ <;> rw [h]
  · exact ⟨_, rfl⟩
  · exact ⟨_, rfl⟩
  · exact ⟨_, rfl⟩
  · exact ⟨_, rfl⟩
  · obtain ⟨t, ht, -⟩ := exec_ends i (acceptInputs s)
    exact ⟨t, ht⟩

end Sys2Proof.Machine
end

section
/-! Halted cores, and what one instruction's memory accesses are to another's: a load, a fetch or a pop after a write, and an
ERET after a TRAP. -/

namespace Sys2Proof.Machine

/-! ## A halted core (R142, R284, R293) -/

theorem coreStep_halted {s : State} (h : s.runState ≠ .run) : coreStep s = .next s := by
  rw [coreStep]
  cases hr : s.runState <;> first | rfl | exact absurd hr h

/-- Posted events reach the queue, its bitmap and its overflow latch. -/
theorem enqueues_frame (ids : List Byte) (s : State) : ∃ q p o,
    ids.foldl (fun u id => enqueue id u) s = { s with evq := q, evp := p, qovf := o } := by
  induction ids generalizing s with
  | nil => exact ⟨s.evq, s.evp, s.qovf, rfl⟩
  | cons id ids ih =>
    obtain ⟨q, p, o, h⟩ := ih (enqueue id s)
    refine ⟨q, p, o, h.trans ?_⟩
    rw [enqueue]
    split <;> rfl

/-- Ticks leave a permanently halted core TICK 0. -/
theorem ticks_haltPerm {xs : List Input} {s : State} (hxs : ∀ x ∈ xs, x = .tick) (hs : s.runState = .haltPerm) :
    xs.foldl applyInput s = if Input.tick ∈ xs then s.setTick 0#16 else s := by
  induction xs generalizing s with
  | nil => rfl
  | cons x xs ih =>
    obtain rfl := hxs x (List.mem_cons_self ..)
    have happly : applyInput s .tick = s.setTick 0#16 := tickBoundary_haltPerm hs
    rw [List.foldl_cons, happly, ih (s := s.setTick 0#16) (fun y hy => hxs y (List.mem_cons_of_mem _ hy)) hs,
      if_pos (List.mem_cons_self ..)]
    split <;> rfl

/-- The inputs of a boundary with no reset at which the core is permanently halted. -/
theorem acceptInputs_haltPerm {s : State} {ids : List Byte} (hs : s.runState = .haltPerm)
    (hreset : Input.reset ∉ s.pendingInputs) (hids : s.pendingInputs.filter Input.isEnqueue = ids.map Input.enqueue) :
    acceptInputs s = ids.foldl (fun u id => enqueue id u)
      ((s.setEnv s.env.tail).setTick (if Input.tick ∈ s.pendingInputs then 0#16 else s.tick)) := by
  have hnone : s.pendingInputs.filter Input.isReset = [] := by
    refine List.filter_eq_nil_iff.2 fun x hx => ?_
    cases x <;> first | exact absurd hx hreset | exact Bool.false_ne_true
  have hticks : ∀ x ∈ s.pendingInputs.filter Input.isTick, x = .tick := by
    intro x hx
    have hx' := (List.mem_filter.1 hx).2
    cases x <;> first | rfl | cases hx'
  have hmem : Input.tick ∈ s.pendingInputs.filter Input.isTick ↔ Input.tick ∈ s.pendingInputs := by
    simp [List.mem_filter, Input.isTick]
  rw [acceptInputs, applyInputs, inputOrder, hnone, hids, List.nil_append, List.foldl_append, List.foldl_map,
    ticks_haltPerm (s := s.setEnv s.env.tail) hticks hs]
  simp only [hmem]
  split <;> rfl

/-- Settles O13. -/
theorem permanentHaltEndsOnlyByReset : Obligations.PermanentHaltEndsOnlyByReset := by
  intro s ids hs hreset hids
  have haccept := acceptInputs_haltPerm hs hreset hids
  have hposted := posted_foldl ids
    ((s.setEnv s.env.tail).setTick (if Input.tick ∈ s.pendingInputs then 0#16 else s.tick))
  obtain ⟨q, p, o, hframe⟩ := enqueues_frame ids
    ((s.setEnv s.env.tail).setTick (if Input.tick ∈ s.pendingInputs then 0#16 else s.tick))
  rw [hframe] at haccept hposted
  rw [step, haccept]
  have hrun : s.runState ≠ .run := by rw [hs]; exact RunState.noConfusion
  exact ⟨_, coreStep_halted hrun, hs, rfl, ⟨hposted.evq, hposted.evp, hposted.qovf⟩, fun _ => rfl, rfl, rfl, rfl, ⟨rfl, rfl⟩,
    fun _ => rfl, ⟨rfl, rfl, rfl⟩, rfl, rfl, rfl⟩

theorem acceptInputs_enqueues {s : State} {ids : List Byte} (hids : s.pendingInputs = ids.map Input.enqueue) :
    acceptInputs s = ids.foldl (fun u id => enqueue id u) (s.setEnv s.env.tail) := by
  have hreset : (ids.map Input.enqueue).filter Input.isReset = [] := by simp [List.filter_map, Input.isReset]
  have htick : (ids.map Input.enqueue).filter Input.isTick = [] := by simp [List.filter_map, Input.isTick]
  have henq : (ids.map Input.enqueue).filter Input.isEnqueue = ids.map Input.enqueue :=
    List.filter_eq_self.2 (by simp [Input.isEnqueue])
  rw [acceptInputs, hids, applyInputs, inputOrder, hreset, htick, henq, List.nil_append, List.nil_append, List.foldl_map]
  rfl

/-- Settles O14. -/
theorem eventsDoNotWakeAHaltedCore : Obligations.EventsDoNotWakeAHaltedCore := by
  intro s ids hs hids
  have haccept := acceptInputs_enqueues hids
  have hposted := posted_foldl ids (s.setEnv s.env.tail)
  obtain ⟨q, p, o, hframe⟩ := enqueues_frame ids (s.setEnv s.env.tail)
  rw [hframe] at haccept hposted
  have hrun : s.runState ≠ .run := by rcases hs with h | h <;> rw [h] <;> exact RunState.noConfusion
  rw [step, haccept]
  exact ⟨_, coreStep_halted hrun, rfl, rfl, ⟨hposted.evq, hposted.evp, hposted.qovf⟩, fun _ => rfl, rfl, rfl, rfl,
    ⟨rfl, rfl⟩, fun _ => rfl, ⟨rfl, rfl, rfl⟩, rfl, rfl, rfl⟩

/-! ## Words of RAM (R64, R80) -/

section
variable {a v : Word} {s t : State}

theorem append_halves (v : Word) : v.extractLsb' 8 8 ++ v.extractLsb' 0 8 = v := wordOf_halves v

theorem DataWritten.wordAt_same (h : DataWritten a v s t) (ha : a.toNat < 0xE000) : t.wordAt a.toNat = v := by
  obtain ⟨hhi, hlo, -⟩ := h.ram ha
  rw [State.wordAt, hhi, hlo, append_halves]

theorem DataWritten.wordAt_other (h : DataWritten a v s t) {b : Nat} (hb : b + 2 ≤ a.toNat ∨ a.toNat + 2 ≤ b) :
    t.wordAt b = s.wordAt b := by
  rw [State.wordAt, h.same_mem_but b (by omega) (by omega), h.same_mem_but (b + 1) (by omega) (by omega)]

theorem DataRead.value (h : DataRead s.diag a v s t) (ha : a.toNat < 0xE000) : v = s.wordAt a.toNat := (h.plain ha).1

theorem SameMem.wordAt (h : SameMem s t) (b : Nat) : t.wordAt b = s.wordAt b := by rw [State.wordAt, h b, h (b + 1)]

end

/-- A STORE to RAM. -/
theorem exec_storeAbs_ram (rd : Reg) {a : Word} (s : State) (heven : a.toNat % 2 = 0) (hram : region a = .ram) :
    ∃ t, exec (.storeAbs rd a) s = .next t ∧ SameRegs s t ∧ DataWritten a (s.reg rd) s t := by
  rw [region_ram_iff] at hram
  obtain ⟨t, ht, hres⟩ := storeTo_result (.storeAbs rd a) rd a s rfl
  obtain ⟨-, hregs, -, hwritten⟩ := hres.1 ⟨heven, hram.1, by omega⟩
  exact ⟨t, ht, hregs, hwritten⟩

/-- A LOAD from RAM. -/
theorem exec_loadAbs_ram (rd : Reg) {a : Word} (s : State) (heven : a.toNat % 2 = 0) (hram : region a = .ram) :
    ∃ t, exec (.loadAbs rd a) s = .next t ∧ t.reg rd = s.wordAt a.toNat := by
  rw [region_ram_iff] at hram
  obtain ⟨t, ht, hres⟩ := loadFrom_result (.loadAbs rd a) rd a s rfl
  obtain ⟨-, v, hwrote, -, hread⟩ := hres.1 ⟨heven, by omega⟩
  exact ⟨t, ht, hwrote.1.trans (hread.value hram.2)⟩

theorem fetchWord_ram {a : Word} (s : State) (heven : a.toNat % 2 = 0) (hram : region a = .ram) :
    fetchWord a s = .ok (s.wordAt a.toNat) :=
  fetchWord_legal (fetchLegal_of_region heven (.inr hram))

/-- A PUSH and a POP over a word of RAM. -/
theorem exec_push_pop_ram (rd rq : Reg) {a : Word} {s : State} (heven : a.toNat % 2 = 0) (hram : region a = .ram)
    (hsp : s.sp = a + 2#16) : ∃ u t, exec (.push rd) s = .next u ∧ exec (.pop rq) u = .next t ∧
      t.reg rq = s.reg rd ∧ t.sp = s.sp ∧ t.flags = s.flags ∧ SameMemBut a s t ∧ SameRegsBut rq s t := by
  rw [region_ram_iff] at hram
  have hpush : s.sp - 2#16 = a := by rw [hsp, BitVec.add_sub_cancel]
  obtain ⟨u, hu, hend, hregs, hflags, hwritten⟩ := push_legal rd (s := s) (by rw [hpush]; exact ⟨heven, hram.1, by omega⟩)
  rw [hpush] at hwritten
  have husp : u.sp = a := hend.sp.trans hpush
  obtain ⟨t, v, ht, hend', hwrote, hflags', hread⟩ := pop_legal rq (s := u) (by rw [husp]; exact ⟨heven, by omega⟩)
  rw [husp] at hread
  refine ⟨u, t, hu, ht, ?_, ?_, hflags'.trans hflags, fun x h0 h1 => ?_, fun q hq => ?_⟩
  · rw [hwrote.1, hread.value hram.2, hwritten.wordAt_same hram.2]
  · rw [hend'.sp, husp, hsp]
  · rw [hread.mem x, hwritten.same_mem_but x h0 h1]
  · rw [hwrote.2 q hq, hregs q]

/-- Settles O30: the second STORE's word shares no byte with the first's, both being even. -/
theorem memoryReturnsTheLastWrite : Obligations.MemoryReturnsTheLastWrite := by
  intro rd rq rp a b s ha hb hra hrb hab
  refine ⟨?_, exec_push_pop_ram rd rq ha hra⟩
  have hra' := (region_ram_iff a).1 hra
  have hrb' := (region_ram_iff b).1 hrb
  have hne : a.toNat ≠ b.toNat := fun h => hab (BitVec.eq_of_toNat_eq h)
  obtain ⟨u, hu, hregs, hwa⟩ := exec_storeAbs_ram rd s ha hra
  obtain ⟨v, hv, -, hwb⟩ := exec_storeAbs_ram rp u hb hrb
  obtain ⟨t, ht, hload⟩ := exec_loadAbs_ram rq v ha hra
  have hword : v.wordAt a.toNat = s.reg rd := by
    rw [hwb.wordAt_other (by omega), hwa.wordAt_same hra'.2]
  refine ⟨u, v, t, hu, hv, ht, hload.trans hword, ?_, ?_⟩
  · rw [fetchWord_ram v ha hra, hword]
  · rw [fetchWord_ram v hb hrb, hwb.wordAt_same hrb'.2, hregs rp]

/-! ## ERET after TRAP (R277) -/

theorem poppedFlags_of_reservedZero {s : State} (h : s.reservedFlagsZero) : s.flags &&& 0x003F#16 = s.flags := by
  apply BitVec.eq_of_getLsbD_eq
  intro j hj
  refine (getLsbD_poppedFlags s.flags j hj).trans ?_
  by_cases h6 : j < 6
  · simp [h6]
  · simp [h6, h j (by omega) hj]

/-- An ERET whose frame is in RAM. -/
theorem exec_eret_ram {cls : DispatchClass} {ctx : List DispatchClass} {s : State} (hctx : s.hctx = cls :: ctx)
    (heven : s.sp.toNat % 2 = 0) (hsp : s.sp.toNat + 6 ≤ 0xE000) :
    ∃ t, exec .eret s = .next t ∧ t.cause = s.wordAt s.sp.toNat ∧ t.flags = s.wordAt (s.sp.toNat + 2) &&& 0x003F#16 ∧
      t.pc = s.wordAt (s.sp.toNat + 4) ∧ t.sp = s.sp + 6#16 ∧ t.hctx = ctx ∧ SameRegs s t := by
  have h2 : (s.sp + 2#16).toNat = s.sp.toNat + 2 := by bv_omega
  have h4 : (s.sp + 4#16).toNat = s.sp.toNat + 4 := by bv_omega
  obtain ⟨-, hlegal, -⟩ := eretPopsTheFrame 0#16 s
  obtain ⟨t, u, v, w, ht, r0, r2, r4, hflags, hsp', hctx', hregs, -⟩ := hlegal cls ctx hctx ⟨heven, by omega⟩
    ⟨by omega, by omega⟩ ⟨by omega, by omega⟩
  have hw := (r2.plain (by omega)).1
  have hp := (r4.plain (by omega)).1
  rw [h2] at hw
  rw [h4] at hp
  have huv : SameMem s v := fun x => (r2.mem x).trans (r0.mem x)
  refine ⟨t, ht, r0.value (by omega), ?_, ?_, hsp', hctx', hregs⟩
  · rw [hflags, ← SameMem.wordAt r0.mem, State.wordAt, hw]
  · rw [← huv.wordAt, State.wordAt, hp]

/-- The frame of a dispatch as three words of RAM. -/
theorem FrameStored.words {resume cause : Word} {s t : State} (h : FrameStored resume cause s t)
    (hlo : 0x4006 ≤ s.sp.toNat) (hhi : s.sp.toNat ≤ 0xE000) :
    t.wordAt (s.sp.toNat - 6) = cause ∧ t.wordAt (s.sp.toNat - 4) = s.flags ∧ t.wordAt (s.sp.toNat - 2) = resume := by
  have h2 : (s.sp - 2#16).toNat = s.sp.toNat - 2 := by bv_omega
  have h4 : (s.sp - 4#16).toNat = s.sp.toNat - 4 := by bv_omega
  have h6 : (s.sp - 6#16).toNat = s.sp.toNat - 6 := by bv_omega
  obtain ⟨⟨u, v, w2, w4, w6⟩, -⟩ := h
  have e2 := w2.wordAt_same (by omega)
  have e4 := w4.wordAt_same (by omega)
  have e6 := w6.wordAt_same (by omega)
  rw [h2] at e2
  rw [h4] at e4
  rw [h6] at e6
  refine ⟨e6, ?_, ?_⟩
  · rw [w6.wordAt_other (by omega), e4]
  · rw [w6.wordAt_other (by omega), w4.wordAt_other (by omega), e2]

/-- Settles O53. -/
theorem eretUndoesTheTrapDispatch : Obligations.EretUndoesTheTrapDispatch := by
  intro rd s hreserved heven hlo hhi
  have h2 : (s.sp - 2#16).toNat = s.sp.toNat - 2 := by bv_omega
  have h4 : (s.sp - 4#16).toNat = s.sp.toNat - 4 := by bv_omega
  have h6 : (s.sp - 6#16).toNat = s.sp.toNat - 6 := by bv_omega
  have hpush : PushesLegal s.sp :=
    ⟨⟨by omega, by omega, by omega⟩, ⟨by omega, by omega, by omega⟩, ⟨by omega, by omega, by omega⟩⟩
  obtain ⟨-, u, hu, htrap⟩ := trapTakesTheTrapDispatch rd 0#16 s
  obtain ⟨hd, -⟩ := htrap.1 hpush
  have husp : u.sp.toNat = s.sp.toNat - 6 := by rw [hd.sp, h6]
  obtain ⟨t, ht, hcause, hflags, hpc, hsp, hctx, hregs⟩ := exec_eret_ram hd.context (by omega) (by omega)
  obtain ⟨e6, e4, e2⟩ := hd.stored.words hlo hhi
  rw [husp] at hcause hflags hpc
  rw [show s.sp.toNat - 6 + 2 = s.sp.toNat - 4 by omega, e4, poppedFlags_of_reservedZero hreserved] at hflags
  rw [show s.sp.toNat - 6 + 4 = s.sp.toNat - 2 by omega, e2] at hpc
  refine ⟨u, t, hu, ht, hpc, hflags, ?_, hctx, fun q hq => (hregs q).trans (hd.regs q hq), (hregs .r0).trans hd.handed, ?_⟩
  · rw [hsp, hd.sp, BitVec.sub_add_cancel]
  · rw [hcause, e6, hd.cause]

end Sys2Proof.Machine
end
